-- ==== Sys2Proof/Word.lean ====
section
/-! DEFINITION. The word types of the block: the spec's `u8`, the 16-bit command code and selector, and `u32`
(spec/00_scope.md R7: every value is unsigned; bit 0 is the least significant bit). -/

namespace Sys2Proof

/-- The spec's `u8` (R7). -/
abbrev Byte := BitVec 8

/-- A command code (`CMD16`, R82) or an operation selector (`CALL16`, R94). -/
abbrev Half := BitVec 16

/-- The spec's `u32` (R7). -/
abbrev Word := BitVec 32

end Sys2Proof
end

