-- ==== Sys2Proof/Config.lean ====
section
/-! DEFINITION. The implementation parameters of spec/00_scope.md R6 as one plain record, their constraints, and the
constants the source fixes (R5). The record is a field of State that no step changes, so a statement about every state
holds for every value of every parameter (notes/assumptions/1.md). -/

namespace Sys2Proof

/-- `READBACK` (R6, R115): what reading a register that the source never reads answers. -/
inductive Readback where
  /-- the read is refused (the default) -/
  | refuse
  /-- the read returns the last value written -/
  | stored
  deriving DecidableEq, Repr

/-- What `RGB.SetPeriod(0)` does (R154, D13: refused by default, "a configuration may instead raise
`InvalidArgument`"). -/
inductive PeriodZero where
  /-- refused (the default) -/
  | refuse
  /-- `InvalidArgument`, with no state change -/
  | invalidArgument
  deriving DecidableEq, Repr

/-- The numbers that stand for the eight errors of R220 (R6, row "error code numbers", U19): the spec gives none. Which
error has which number is `Err.number`. -/
structure ErrorNumbers where
  permissionDenied : Int
  interrupted : Int
  invalidCommand : Int
  invalidFormat : Int
  invalidArgument : Int
  ioFault : Int
  resourceExhausted : Int
  deviceUnavailable : Int
  deriving DecidableEq, Repr

/-- The eight numbers in the order of R220. -/
def ErrorNumbers.toList (n : ErrorNumbers) : List Int :=
  [n.permissionDenied, n.interrupted, n.invalidCommand, n.invalidFormat, n.invalidArgument, n.ioFault,
    n.resourceExhausted, n.deviceUnavailable]

/-- The parameters of R6. `EXTENT` and `BASE` are per instance and arrive with `HOST.Attach`. -/
structure Config where
  /-- `PERIOD_DEFAULT` -/
  periodDefault : Word
  /-- `MAX_DIVISOR` -/
  maxDivisor : Word
  /-- `OFF_DUTY_R` -/
  offDutyR : Nat
  /-- `OFF_DUTY_G` -/
  offDutyG : Nat
  /-- `OFF_DUTY_B` -/
  offDutyB : Nat
  /-- `OFF_PERIOD` -/
  offPeriod : Nat
  /-- `OFF_LED_DATA` -/
  offLedData : Nat
  /-- `OFF_SW_DATA` -/
  offSwData : Nat
  /-- `WR_BUF_SIZE` -/
  wrBufSize : Nat
  /-- `RD_BUF_SIZE` -/
  rdBufSize : Nat
  /-- `SWITCH_OPEN_READONLY` -/
  switchOpenReadonly : Bool
  /-- `READBACK` -/
  readback : Readback
  /-- the choice R154 allows for `RGB.SetPeriod(0)` -/
  periodZero : PeriodZero
  /-- `HAS_IMPLICIT_STORE_ORDER`: named by R6 and "not used", since R58 issues the barrier whatever it is -/
  hasImplicitStoreOrder : Bool
  /-- "error code numbers": any injective numbering of the errors (R6, R220, D21) -/
  errorNumbers : ErrorNumbers
  deriving DecidableEq, Repr

/-- The constraints R6 and R53 put on the parameters; the last is that the numbering of the errors is injective. -/
abbrev Config.wf (c : Config) : Prop :=
  0 < c.periodDefault.toNat ∧ 0 < c.maxDivisor.toNat ∧
  [c.offDutyR, c.offDutyG, c.offDutyB, c.offPeriod].Nodup ∧
  (∀ o ∈ [c.offDutyR, c.offDutyG, c.offDutyB, c.offPeriod], o % 4 = 0) ∧
  14 ≤ c.wrBufSize ∧ 15 ≤ c.rdBufSize ∧ c.errorNumbers.toList.Nodup

/-- The parameters of `State.reset`: the "reference value" column of R6, used by the spec's test vectors only and no
claim about the hardware, where it has a value. R6 gives none to the last three. `periodZero` is R154's default.
DESIGN CHOICE, unsafe (notes/assumptions/1.md): `hasImplicitStoreOrder` is false, which R6 calls "not used", and the
errors are numbered from 1 in the order of R220, where R6 has "symbolic names only". No meaning reads either. -/
def Config.reference : Config where
  periodDefault := 100000
  maxDivisor := 3
  offDutyR := 0x00
  offDutyG := 0x04
  offDutyB := 0x08
  offPeriod := 0x0C
  offLedData := 0x00
  offSwData := 0x00
  wrBufSize := 16
  rdBufSize := 16
  switchOpenReadonly := true
  readback := .refuse
  periodZero := .refuse
  hasImplicitStoreOrder := false
  errorNumbers := ⟨1, 2, 3, 4, 5, 6, 7, 8⟩

/-- `LED_INIT_DEFAULT` (R5). -/
def ledInitDefault : Byte := 0

/-- `LED_MASK_DEFAULT` (R5). -/
def ledMaskDefault : Byte := 0x0F

/-- `SW_MASK_DEFAULT` (R5). -/
def swMaskDefault : Byte := 0x0F

/-- `CHANNEL_STEPS` (R5). -/
def channelSteps : Nat := 256

/-- `RGB_TEXT_LEN` (R5). -/
def rgbTextLen : Nat := 14

end Sys2Proof
end

