-- ==== Sys2Proof/Syntax.lean ====
section
/-! DEFINITION. The operations of the block: one constructor of `Instr` per row of spec/opcode_table.json, with the typed
operands the spec gives it (spec/30_encoding.md R83, R85, R86, R94, R96, R97), and the call a caller or the host makes:
a 16-bit code and typed operands (R85: "a model passes the argument as a typed value"). -/

namespace Sys2Proof

/-- The peripheral kind of one device (R12, R29). -/
inductive Kind where
  | led
  | rgb
  | sw
  deriving DecidableEq, Repr

/-- The access mode given to `open` (R31, R190). -/
inductive Mode where
  | readOnly
  | writeOnly
  | readWrite
  deriving DecidableEq, Repr

/-- The `whence` of a seek (R97); `fromEnd` is the spec's `End`. -/
inductive Whence where
  | fromStart
  | fromCurrent
  | fromEnd
  deriving DecidableEq, Repr

/-- The declared width of a register access (R5, R86): 8 or 32 bits. -/
inductive Width where
  | w8
  | w32
  deriving DecidableEq, Repr

/-- "three unsigned 8-bit channels (r, g, b)" (R27). -/
structure ColorValue where
  r : Byte
  g : Byte
  b : Byte
  deriving DecidableEq, Repr

/-- Where a call is made and who makes it: the device (an index into the state's list of devices) and the immediate
caller, to whom the result goes (R225). -/
structure Site where
  inst : Nat
  caller : Nat
  deriving DecidableEq, Repr

/-- A call made inside a session: the device, the immediate caller, and the token the caller presents (R31, R150). -/
structure Ctx where
  inst : Nat
  caller : Nat
  token : Nat
  deriving DecidableEq, Repr

/-- One constructor per row of spec/opcode_table.json. In a command, `priv` is the Privilege token of R96. -/
inductive Instr where
  /-- 0x4C00, R170 -/
  | ledGetInit (c : Ctx) (priv : Bool)
  /-- 0x4C01, R171 -/
  | ledSetInit (c : Ctx) (priv : Bool) (v : Byte)
  /-- 0x4C02, R172 -/
  | ledGetMask (c : Ctx) (priv : Bool)
  /-- 0x4C03, R173 -/
  | ledSetMask (c : Ctx) (priv : Bool) (m : Byte)
  /-- 0x4C04, R174 -/
  | ledReset (c : Ctx) (priv : Bool)
  /-- 0x5200, R151 -/
  | rgbGetValue (c : Ctx) (priv : Bool)
  /-- 0x5201, R152 -/
  | rgbSetValue (c : Ctx) (priv : Bool) (packed : Word)
  /-- 0x5202, R153 -/
  | rgbGetPeriod (c : Ctx) (priv : Bool)
  /-- 0x5203, R154 -/
  | rgbSetPeriod (c : Ctx) (priv : Bool) (p : Word)
  /-- 0x5300, R176 -/
  | swGetMask (c : Ctx) (priv : Bool)
  /-- 0x5301, R177 -/
  | swSetMask (c : Ctx) (priv : Bool) (m : Byte)
  /-- 0x5302, R178 -/
  | swGetValue (c : Ctx) (priv : Bool)
  /-- 0x4600, R110 -/
  | rfRead (w : Site) (offset : Nat) (width : Width)
  /-- 0x4601, R111; an 8-bit write passes its `u8` zero-extended in `value` -/
  | rfWrite (w : Site) (offset : Nat) (width : Width) (value : Word)
  /-- 0x4602, R112 -/
  | rfWriteMasked8 (w : Site) (offset : Nat) (value : Byte) (mask : Byte)
  /-- 0x4603, R113 -/
  | rfBarrier (w : Site)
  /-- 0x4300, R130 -/
  | codecDecode (caller : Nat) (packed : Word)
  /-- 0x4301, R131 -/
  | codecEncode (caller : Nat) (color : ColorValue)
  /-- 0x4302, R133 -/
  | codecScaleDuty (caller : Nat) (period : Word) (channelValue : Byte) (maxDivisor : Word)
  /-- 0x4700, R61 -/
  | guardAcquire (w : Site)
  /-- 0x4701, R62 -/
  | guardRelease (c : Ctx)
  /-- 0x6C00, R190 -/
  | ledOpen (w : Site) (mode : Mode)
  /-- 0x6C01, R191 -/
  | ledClose (c : Ctx)
  /-- 0x6C02, R193 -/
  | ledStreamRead (c : Ctx) (offset : Nat) (cap : Nat)
  /-- 0x6C03, R192 -/
  | ledStreamWrite (c : Ctx) (offset : Nat) (data : List Byte)
  /-- 0x6C04, R199 -/
  | ledSeek (c : Ctx) (offset : Int) (whence : Whence)
  /-- 0x7200, R190 -/
  | rgbOpen (w : Site) (mode : Mode)
  /-- 0x7201, R191 -/
  | rgbClose (c : Ctx)
  /-- 0x7202, R194 -/
  | rgbStreamRead (c : Ctx) (offset : Nat) (cap : Nat)
  /-- 0x7203, R195 -/
  | rgbStreamWrite (c : Ctx) (offset : Nat) (data : List Byte)
  /-- 0x7204, R199 -/
  | rgbSeek (c : Ctx) (offset : Int) (whence : Whence)
  /-- 0x7300, R190 -/
  | swOpen (w : Site) (mode : Mode)
  /-- 0x7301, R191 -/
  | swClose (c : Ctx)
  /-- 0x7302, R197 -/
  | swStreamRead (c : Ctx) (offset : Nat) (cap : Nat)
  /-- 0x7303, R198 -/
  | swStreamWrite (c : Ctx) (offset : Nat) (data : List Byte)
  /-- 0x7304, R199 -/
  | swSeek (c : Ctx) (offset : Int) (whence : Whence)
  /-- 0x4100, R250 -/
  | hostAttach (kind : Kind) (base : Nat) (size : Nat)
  /-- 0x4101, R252 -/
  | hostDetach (inst : Nat)
  /-- 0x4102, R253 -/
  | hostShutdown (inst : Nat)
  /-- 0x4103, R227; names one blocked caller -/
  | hostInterrupt (caller : Nat)
  deriving DecidableEq, Repr

/-- How a call reaches the block: as a command code given to the Command Handler (`CMD16`, R82), or as a call of one of
the operations that are not commands (`CALL16`, R94). -/
inductive CallForm where
  | command
  | operation
  deriving DecidableEq, Repr

/-- The typed operands of a call. The source gives no layout of them (R85, D24), so there is one field for each operand
the table names and every operation reads the fields it has; the default is the operand of zeros. -/
structure Operands where
  inst : Nat := 0
  caller : Nat := 0
  token : Nat := 0
  priv : Bool := false
  /-- the `u8` argument of an 8-bit Set command, the value of a masked write, the channel of `scaleDuty` -/
  arg8 : Byte := 0
  /-- the mask of a masked write -/
  mask8 : Byte := 0
  /-- the `u32` argument of an RGB Set command, the value of `RF.Write`, the packed colour, the period -/
  arg32 : Word := 0
  /-- the divisor of `scaleDuty` -/
  divisor : Word := 0
  /-- the register offset or the stream offset -/
  offset : Nat := 0
  width : Width := .w8
  /-- the capacity of the caller's read buffer -/
  cap : Nat := 0
  /-- the bytes of a stream write -/
  data : List Byte := []
  /-- the signed offset of a seek (R97) -/
  seek : Int := 0
  whence : Whence := .fromStart
  mode : Mode := .readOnly
  color : ColorValue := ⟨0, 0, 0⟩
  kind : Kind := .led
  base : Nat := 0
  size : Nat := 0
  deriving DecidableEq, Repr

/-- One call: how it is made, its 16-bit code, its operands. -/
structure CallWord where
  form : CallForm
  code : Half
  ops : Operands
  deriving DecidableEq, Repr

end Sys2Proof
end

