-- ==== Sys2Proof/Machine/State.lean ====
section
/-! DEFINITION. The state of the machine as plain data: the register content, the devices with their Peripheral State,
guard, session and lifetime (spec/10_state.md R23 to R33), the error taxonomy (spec/60_exceptions.md R220), the faults
and refusals, and the state after reset (R36, column power-on). Fields that are the model's own are marked so. -/

namespace Sys2Proof.Machine

open Sys2Proof

/-! ## Registers (R23 to R26, R52) -/

/-- The content of a written register: one cell holding a number of the declared width (R52). -/
inductive RegVal where
  | byte (v : Byte)
  | word (v : Word)
  deriving DecidableEq, Repr

/-- `hw`: the written registers by bus address `BASE + offset` (R9, R50), addresses strictly rising. An address that is
not listed is *unwritten* (R12, R36): "a register no write has reached since power-on". -/
abbrev Memory := List (Nat × RegVal)

/-- One entry of the event history of a register block: "one event per call" (R55), with the barrier of R60. The offset
is from the block's base. -/
inductive BusEvent where
  | read (offset : Nat) (v : RegVal)
  | write (offset : Nat) (v : RegVal)
  | barrier
  deriving DecidableEq, Repr

/-! ## Peripheral State (R27 to R30) -/

/-- The LED variant of DeviceConfig (R29). -/
structure LedState where
  initValue : Byte
  mask : Byte
  deriving DecidableEq, Repr

/-- The RGB variant of DeviceConfig (R28, R29); `MAX_DIVISOR` is a parameter, not state. -/
structure RgbState where
  color : ColorValue
  period : Word
  deriving DecidableEq, Repr

/-- The Switch variant of DeviceConfig (R29). -/
structure SwState where
  mask : Byte
  deriving DecidableEq, Repr

/-- `st`: "one variant of DeviceConfig, chosen by the instance's kind" (R29). -/
inductive DeviceConfig where
  | led (st : LedState)
  | rgb (st : RgbState)
  | sw (st : SwState)
  deriving DecidableEq, Repr

/-! ## Session, guard, lifetime (R31 to R33) -/

/-- A live `Session` (R31). -/
structure Session where
  token : Nat
  mode : Mode
  pos : Nat
  rdBuf : List Byte
  wrBuf : List Byte
  deriving DecidableEq, Repr

/-- What an attached device holds: `st`, `guard.holder` (R32) and the live Session, if any (R31). -/
structure Live where
  st : DeviceConfig
  holder : Option Nat
  session : Option Session
  deriving DecidableEq, Repr

/-- `life` (R33). `dead` keeps only the kind: R36 says the Peripheral State, the guard and the session are destroyed. -/
inductive Life where
  | attached (l : Live)
  | dead (kind : Kind)
  deriving DecidableEq, Repr

/-- A caller blocked in `acquire` (R32, R61): through `open` with a mode, or through a bare `acquire`. -/
structure Waiter where
  caller : Nat
  mode : Option Mode
  deriving DecidableEq, Repr

/-- One device (the spec's *instance*, R12): its mapping (R50, R250), its lifetime, its blocked callers and the event
history of its register block. -/
structure Device where
  base : Nat
  extent : Nat
  life : Life
  blocked : List Waiter
  events : List BusEvent
  deriving DecidableEq, Repr

/-! ## Results (R10, R220, R225) -/

/-- The eight errors of the taxonomy (R220): names, and nothing recorded with them. Their numbers are a parameter,
`Err.number` (D21). -/
inductive Err where
  | permissionDenied
  | interrupted
  | invalidCommand
  | invalidFormat
  | invalidArgument
  | ioFault
  | resourceExhausted
  | deviceUnavailable
  deriving DecidableEq, Repr

/-- What an operation returns: `ok`, a value, or an error (R10, R236). -/
inductive Ret where
  | ok
  | u8 (v : Byte)
  | u32 (v : Word)
  | color (c : ColorValue)
  | token (t : Nat)
  | session (t : Nat)
  | count (n : Nat)
  | bytes (l : List Byte)
  | position (n : Nat)
  | device (id : Nat)
  | error (e : Err)
  deriving DecidableEq, Repr

/-- Who made an operation (R12, R225). -/
inductive Agent where
  | host
  | caller (id : Nat)
  deriving DecidableEq, Repr

/-- A result with the immediate caller it is returned to (R225). -/
structure Reply where
  agent : Agent
  ret : Ret
  deriving DecidableEq, Repr

/-! ## Inputs (R34, R37) -/

/-- The environment's draw for an attach (R251, U10). -/
inductive AttachOutcome where
  | succeeds
  | resourceExhausted
  | deviceUnavailable
  deriving DecidableEq, Repr

/-- The two errors of a failed attach: "mapping failure" stands under both names (R251). -/
inductive MapError where
  | resourceExhausted
  | deviceUnavailable
  deriving DecidableEq, Repr

/-- The parameters of a step that R37 leaves to the environment, drawn anew with each call. -/
structure Env where
  /-- whether the caller's buffer is accessible (U11) -/
  bufOk : Bool
  /-- `SW_IN`, the present switch levels (R34, U17) -/
  swIn : Byte
  /-- which blocked caller is granted the token at a release (U9): an index, reduced modulo the number of them -/
  grant : Nat
  /-- whether an attach fails, and how (U10) -/
  attach : AttachOutcome
  /-- which of the two errors an attach returns whose block cannot be mapped because a live device owns a part of it
  (R40, R251) -/
  mapError : MapError
  /-- what a read finds in a register whose address was last written at the other width: the spec gives it no value
  (notes/assumptions/27.md) -/
  overlaid : Word
  deriving DecidableEq, Repr

/-- A call that has been made, with the environment's draws for it. -/
structure Request where
  call : CallWord
  env : Env
  deriving DecidableEq, Repr

/-! ## The state -/

/-- The whole machine. The spec's state is `hw` and `devices`; `cfg` holds the parameters of R6; `nextToken`, `env`,
`pending` and `replies` are the model's own (notes/assumptions/3.md to 6.md). -/
structure State where
  /-- the parameters of R6, changed by no step -/
  cfg : Config
  /-- the register content `hw` -/
  hw : Memory
  /-- the devices in the order they were attached; a device's name is its index -/
  devices : List Device
  /-- the next fresh token (R32: "two tokens granted by different `acquire` calls are distinguishable") -/
  nextToken : Nat
  /-- the environment's draws for the operation being made -/
  env : Env
  /-- the calls made and not yet executed, in the order they are made (R21) -/
  pending : List Request
  /-- every result returned so far, oldest first (R225) -/
  replies : List Reply
  deriving DecidableEq, Repr

/-! ## Faults and refusals (R10, R235) -/

/-- The reason of a `ProgrammingError`. -/
inductive Reason where
  /-- A Register File access on a device that is not Attached: raised by `readRegister` and `writeRegister` (R54, R110,
  R111, R112), and by a direct call of the barrier (R254). Safe. -/
  | lifetime
  /-- A Register File access with an offset not declared for the kind or a width not declared for the offset (R54,
  R110, R111, R112). Safe. -/
  | offset
  /-- A command, stream operation or close that presents a token other than the holder's (R150 step 2, R207, R191).
  Safe. -/
  | noToken
  /-- A stream operation or close that presents the holder's token where the token was acquired without `open`, so that
  there is no Session (R207: a stream operation "runs inside a session"). Safe. -/
  | noSession
  /-- A `release` with a token that is not the holder's, a double release among them (R62). Safe. -/
  | notHolder
  deriving DecidableEq, Repr

/-- Faults: the spec has one, the programming error (R235). -/
inductive Fault where
  /-- `fault ProgrammingError(reason)` (R10, R235): never a final state, never an error value. Raised by the operations
  each reason names. Safe: the model stops where the spec defines no result. -/
  | programmingError (reason : Reason)
  deriving DecidableEq, Repr

/-- Refusals: the calls the spec gives no meaning (R10). -/
inductive Refusal where
  /-- No meaning has been written for the instruction; raised by no arm. Safe. -/
  | notModelled (mnemonic : String)
  /-- An operation on a device that is not Attached: never attached, detached or shut down (R150 step 1, R207, R190,
  R252, R253, R254). Safe. -/
  | deadInstance
  /-- `RGB.SetPeriod(0)` where the configuration refuses it (R154). Safe. -/
  | periodInvariant
  /-- `scaleDuty` with divisor 0 (R138). Safe. -/
  | divisionByZero
  /-- A read of a register the source never reads, with `READBACK = refuse` (R115). Safe. -/
  | readback
  /-- A read of a register that the source never reads and no write has reached since power-on, with
  `READBACK = stored`: R115, "is `refuse(unwritten)` when it has not" been written. Safe. -/
  | unwritten
  /-- A stream read on a `WriteOnly` session or a stream write on a `ReadOnly` one (R204). Safe. -/
  | mode
  /-- An attach whose size does not cover the declared registers (R250). Safe. -/
  | extent
  /-- A stream operation of one kind called on a device of another kind (R94 and R190 give each kind its own). Safe. -/
  | wrongKind
  /-- An `acquire` by a caller that is already blocked in an `acquire` (R61: such a caller makes no call). Safe. -/
  | callerBlocked
  /-- A selector outside R94 (spec/93_implementation_defined.md section 2). Raised by the step. Safe. -/
  | unknownSelector
  /-- An 8-bit register write with a value above 255 (R111). Raised by the step. Safe. -/
  | valueTooWide
  deriving DecidableEq, Repr

/-- The environment's draws at reset; no statement rests on them. -/
def Env.reset : Env where
  bufOk := true
  swIn := 0
  grant := 0
  attach := .succeeds
  mapError := .deviceUnavailable
  overlaid := 0

/-- The machine at power-on (R36, R264) with the given parameters: every register unwritten, no device, no call. -/
def State.resetWith (c : Config) : State where
  cfg := c
  hw := []
  devices := []
  nextToken := 0
  env := .reset
  pending := []
  replies := []

/-- The machine right after reset: power-on, with the reference parameters of R6. -/
def State.reset : State := State.resetWith .reference

end Sys2Proof.Machine
end

