-- ==== Sys2Proof/Machine/Operands.lean ====
section
/-! DEFINITION. The operand of a register access (spec/30_encoding.md R86): declared offsets and widths
(spec/20_memory.md R51), the effective address (R50, R110), the masked byte (R112), and the open modes (R190). -/

namespace Sys2Proof.Machine

open Sys2Proof

/-- The width of a register value. -/
def RegVal.width (v : RegVal) : Width :=
  match v with
  | .byte _ => .w8
  | .word _ => .w32

/-- The value of an `RF.Write` at its width: a `u8` is the low byte of the operand word (R111). -/
def RegVal.ofWord (w : Width) (v : Word) : RegVal :=
  match w with
  | .w8 => .byte (v.setWidth 8)
  | .w32 => .word v

/-- The result of an `RF.Read`: "u8 when width = 8, u32 when width = 32" (R110). -/
def RegVal.toRet (v : RegVal) : Ret :=
  match v with
  | .byte b => .u8 b
  | .word w => .u32 w

/-- The number of bytes of a width. -/
def Width.bytes (w : Width) : Nat :=
  match w with
  | .w8 => 1
  | .w32 => 4

/-- The declared registers of each kind, each with its width (R51). -/
def declaredRegs (cfg : Config) (k : Kind) : List (Nat × Width) :=
  match k with
  | .rgb => [(cfg.offDutyR, .w32), (cfg.offDutyG, .w32), (cfg.offDutyB, .w32), (cfg.offPeriod, .w32)]
  | .led => [(cfg.offLedData, .w8)]
  | .sw => [(cfg.offSwData, .w8)]

/-- Whether (offset, width) is declared for the kind (R51, R54). -/
def declared (cfg : Config) (k : Kind) (offset : Nat) (w : Width) : Bool :=
  (declaredRegs cfg k).contains (offset, w)

/-- Whether an extent covers every declared register of the kind (R6, R250). -/
def covers (cfg : Config) (k : Kind) (size : Nat) : Bool :=
  (declaredRegs cfg k).all fun r => decide (r.1 + Width.bytes r.2 ≤ size)

/-- The value that reaches the hardware on a masked write (R86, R112). -/
def maskedByte (value mask : Byte) : Byte := value &&& mask

/-- The modes `open` allows for a kind (R190). -/
def modeAllowed (cfg : Config) (k : Kind) (m : Mode) : Bool :=
  match k with
  | .led => decide (m = .writeOnly)
  | .rgb => true
  | .sw => !cfg.switchOpenReadonly || decide (m = .readOnly)

/-- Whether a session of this mode may read its stream (R204). -/
def Mode.canRead (m : Mode) : Bool :=
  match m with
  | .writeOnly => false
  | .readOnly | .readWrite => true

/-- Whether a session of this mode may write its stream (R204). -/
def Mode.canWrite (m : Mode) : Bool :=
  match m with
  | .readOnly => false
  | .writeOnly | .readWrite => true

end Sys2Proof.Machine
end

