-- ==== Sys2Proof/Machine/Ops.lean ====
section
/-! DEFINITION. The named operations over the state that the meanings share: the register cells, the device table, the
result and the error entry (spec/60_exceptions.md R225), the bus accesses with their barrier (spec/20_memory.md R55 to
R60), and the checks every session operation begins with (spec/42_rgb_commands.md R150 steps 1 and 2). -/

namespace Sys2Proof.Machine

open Sys2Proof

/-- The two ways an operation ends with no result (R10). -/
inductive Stop where
  | fault (f : Fault)
  | refuse (r : Refusal)
  deriving DecidableEq, Repr

/-- A step's outcome for this machine. -/
abbrev Out := Host.Outcome State Fault Refusal

/-- The outcome of an operation: success and a returned error are next states, the other two outcomes of R10 stop. -/
def finish (r : Except Stop State) : Out :=
  match r with
  | .ok s => .next s
  | .error (.fault f) => .fault f
  | .error (.refuse r) => .refused r

/-- `fault ProgrammingError(reason)` (R10). -/
def programmingError {α : Type} (r : Reason) : Except Stop α := .error (.fault (.programmingError r))

/-- `refuse(reason)` (R10). -/
def refuse {α : Type} (r : Refusal) : Except Stop α := .error (.refuse r)

/-! ## Register cells -/

/-- The content of the register at a bus address; `none` is *unwritten* (R12, R36). -/
def Memory.read (m : Memory) (a : Nat) : Option RegVal :=
  match m with
  | [] => none
  | (b, v) :: rest => if b = a then some v else Memory.read rest a

/-- The register at a bus address takes a value (R26), addresses staying strictly rising. A register is one cell
named by its first address (R9, R52). The spec gives no rule for a cell of another width at the same address, or for one
that begins inside the bytes of this one, which only a dead device can have left: DESIGN CHOICE, the first is replaced
and the second keeps its value, unsafe (notes/assumptions/27.md). -/
def Memory.write (m : Memory) (a : Nat) (v : RegVal) : Memory :=
  match m with
  | [] => [(a, v)]
  | (b, u) :: rest =>
    if a < b then (a, v) :: (b, u) :: rest
    else if a = b then (a, v) :: rest
    else (b, u) :: Memory.write rest a v

/-- The canonical form: addresses strictly rising. -/
abbrev Memory.wf (m : Memory) : Prop := (m.map Prod.fst).Pairwise (· < ·)

/-- The content of a 32-bit register at a bus address. -/
def Memory.word? (m : Memory) (a : Nat) : Option Word :=
  match m.read a with
  | some (.word v) => some v
  | _ => none

/-- The content of an 8-bit register at a bus address. -/
def Memory.byte? (m : Memory) (a : Nat) : Option Byte :=
  match m.read a with
  | some (.byte v) => some v
  | _ => none

/-! ## The device table -/

/-- The kind of a Peripheral State (R29). -/
def DeviceConfig.kind (d : DeviceConfig) : Kind :=
  match d with
  | .led _ => .led
  | .rgb _ => .rgb
  | .sw _ => .sw

/-- The LED variant, if it is one. -/
def DeviceConfig.led? (d : DeviceConfig) : Option LedState :=
  match d with
  | .led l => some l
  | _ => none

/-- The RGB variant, if it is one. -/
def DeviceConfig.rgb? (d : DeviceConfig) : Option RgbState :=
  match d with
  | .rgb r => some r
  | _ => none

/-- The Switch variant, if it is one. -/
def DeviceConfig.sw? (d : DeviceConfig) : Option SwState :=
  match d with
  | .sw w => some w
  | _ => none

/-- The Peripheral State of a kind at attach: "created with defaults at attach time" (R29, R250). -/
def DeviceConfig.initial (cfg : Config) (k : Kind) : DeviceConfig :=
  match k with
  | .led => .led ⟨ledInitDefault, ledMaskDefault⟩
  | .rgb => .rgb ⟨⟨0, 0, 0⟩, cfg.periodDefault⟩
  | .sw => .sw ⟨swMaskDefault⟩

/-- What an attached device holds; `none` when it is dead. -/
def Device.live? (d : Device) : Option Live :=
  match d.life with
  | .attached l => some l
  | .dead _ => none

/-- The kind of a device, kept after its death. -/
def Device.kind (d : Device) : Kind :=
  match d.life with
  | .attached l => l.st.kind
  | .dead k => k

/-- A change of what an attached device holds; none on a dead one. -/
def Device.mapLive (f : Live → Live) (d : Device) : Device :=
  match d.life with
  | .attached l => { d with life := .attached (f l) }
  | .dead _ => d

/-- What the device named `id` holds, if it is Attached (R33). -/
def State.live? (s : State) (id : Nat) : Option Live := s.devices[id]?.bind Device.live?

/-- A change of one device. -/
def State.modifyDevice (s : State) (id : Nat) (f : Device → Device) : State :=
  { s with devices := s.devices.modify id f }

/-- A change of what one attached device holds. -/
def State.modifyLive (s : State) (id : Nat) (f : Live → Live) : State := s.modifyDevice id (Device.mapLive f)

/-- The Peripheral State of one device is replaced. -/
def State.setSt (s : State) (id : Nat) (st : DeviceConfig) : State := s.modifyLive id fun l => { l with st }

/-- The live Session of one device is changed. -/
def State.modifySession (s : State) (id : Nat) (f : Session → Session) : State :=
  s.modifyLive id fun l => { l with session := l.session.map f }

/-- Events are appended to the history of one register block (R55). -/
def State.logEvents (s : State) (id : Nat) (es : List BusEvent) : State :=
  s.modifyDevice id fun d => { d with events := d.events ++ es }

/-! ## Results and error entry -/

/-- `return v`: the result goes to the immediate caller (R225). -/
def State.reply (s : State) (a : Agent) (r : Ret) : State := { s with replies := s.replies ++ [⟨a, r⟩] }

/-- `raise E`, the block's whole error entry (R225): "no state is saved, no mode changes, no vector is consulted, no
handler runs"; the error is returned to the immediate caller. There is no return from it (R226). -/
def State.raise (s : State) (a : Agent) (e : Err) : State := s.reply a (.error e)

/-- The number that stands for an error where a caller sees numbers: "any numbering as a parameter" (R220, R6, U19). The
block itself returns the name, which "is all the caller receives". -/
def Err.number (cfg : Config) (e : Err) : Int :=
  match e with
  | .permissionDenied => cfg.errorNumbers.permissionDenied
  | .interrupted => cfg.errorNumbers.interrupted
  | .invalidCommand => cfg.errorNumbers.invalidCommand
  | .invalidFormat => cfg.errorNumbers.invalidFormat
  | .invalidArgument => cfg.errorNumbers.invalidArgument
  | .ioFault => cfg.errorNumbers.ioFault
  | .resourceExhausted => cfg.errorNumbers.resourceExhausted
  | .deviceUnavailable => cfg.errorNumbers.deviceUnavailable

/-- A result returned to a caller ends the operation. -/
def returns (caller : Nat) (r : Ret) (s : State) : Except Stop State := .ok (s.reply (.caller caller) r)

/-- An error returned to a caller ends the operation. -/
def raises (caller : Nat) (e : Err) (s : State) : Except Stop State := .ok (s.raise (.caller caller) e)

/-- `CopyIn` (R9): the operation goes on where the caller's buffer is accessible, else `IOFault`. -/
def copyIn (caller : Nat) (s : State) (k : Except Stop State) : Except Stop State :=
  if s.env.bufOk then k else raises caller .ioFault s

/-- `CopyOut` (R9): the result is returned where the caller's buffer is accessible, else `IOFault`. -/
def copyOut (caller : Nat) (r : Ret) (s : State) : Except Stop State :=
  if s.env.bufOk then returns caller r s else raises caller .ioFault s

/-! ## Register accesses -/

/-- `Barrier()` (R60, R113): it changes no `hw`, `st`, `guard` or `ses`; it stands in the event history, whose order is
the order in which the accesses of the block reach the hardware (R59). -/
def barrier (id : Nat) (s : State) : State := s.logEvents id [.barrier]

/-- `MemWrite` (R9): one write access at `BASE + offset`, one event (R55); `hw[offset]` takes the value (R26). -/
def memWrite (id base offset : Nat) (v : RegVal) (s : State) : State :=
  { s with hw := Memory.write s.hw (base + offset) v }.logEvents id [.write offset v]

/-- `writeRegister(offset, width, value)` (R111): the checks of R54, the write, the barrier. -/
def writeRegister (id offset : Nat) (v : RegVal) (s : State) : Except Stop State :=
  match s.devices[id]? with
  | none => programmingError .lifetime
  | some d =>
    match d.life with
    | .dead _ => programmingError .lifetime
    | .attached l =>
      if declared s.cfg l.st.kind offset v.width then .ok (barrier id (memWrite id d.base offset v s))
      else programmingError .offset

/-- `writeRegister(offset, 8, value, mask)` (R112). -/
def writeMasked8 (id offset : Nat) (value mask : Byte) (s : State) : Except Stop State :=
  writeRegister id offset (.byte (maskedByte value mask)) s

/-- What a read access of a declared register returns: the switch levels for `SW_DATA` (R34, R110), and for any other
register what `READBACK` says (R115): with `stored` the content of a written register, and `refuse(unwritten)` where no
write has reached it. A cell that a dead device left at the other width has no content at this one: the read returns
any value, the environment's draw (DESIGN CHOICE, notes/assumptions/27.md). -/
def registerValue (s : State) (k : Kind) (a : Nat) (w : Width) : Except Stop RegVal :=
  match k with
  | .sw => .ok (.byte s.env.swIn)
  | .led | .rgb =>
    match s.cfg.readback with
    | .refuse => refuse .readback
    | .stored =>
      match Memory.read s.hw a with
      | some v => .ok (if v.width = w then v else .ofWord w s.env.overlaid)
      | none => refuse .unwritten

/-- `readRegister(offset, width)` (R110): the checks of R54, then one read access, one event (R55). -/
def readRegister (id offset : Nat) (w : Width) (s : State) : Except Stop (RegVal × State) :=
  match s.devices[id]? with
  | none => programmingError .lifetime
  | some d =>
    match d.life with
    | .dead _ => programmingError .lifetime
    | .attached l =>
      if declared s.cfg l.st.kind offset w then
        match registerValue s l.st.kind (d.base + offset) w with
        | .ok v => .ok (v, s.logEvents id [.read offset v])
        | .error e => .error e
      else programmingError .offset

/-! ## Checks -/

/-- Step 1 of R150: the device is Attached, or `refuse(dead instance)`. -/
def liveOf (id : Nat) (s : State) : Except Stop Live :=
  match s.live? id with
  | some l => .ok l
  | none => refuse .deadInstance

/-- Steps 1 and 2 of R150 and R207: the device is Attached and the caller presents the holder's token. -/
def heldLive (c : Ctx) (s : State) : Except Stop Live :=
  match liveOf c.inst s with
  | .error e => .error e
  | .ok l => if l.holder = some c.token then .ok l else programmingError .noToken

/-- The checks of R207 for an operation that needs the Session of the token (R31). -/
def heldSession (c : Ctx) (s : State) : Except Stop (Live × Session) :=
  match heldLive c s with
  | .error e => .error e
  | .ok l =>
    match l.session with
    | none => programmingError .noSession
    | some ses => if ses.token = c.token then .ok (l, ses) else programmingError .noSession

/-- The common command procedure (R150), steps 1 to 4: dead instance, no token, `InvalidCommand` where the code is
unknown to the device's kind, `PermissionDenied` where the command is gated and the caller unprivileged. `known`
picks the Peripheral State of the command's kind; `k` is the rest. -/
def command {α : Type} (c : Ctx) (priv gated : Bool) (known : DeviceConfig → Option α) (s : State)
    (k : α → Except Stop State) : Except Stop State :=
  match heldLive c s with
  | .error e => .error e
  | .ok l =>
    match known l.st with
    | none => raises c.caller .invalidCommand s
    | some st => if gated && !priv then raises c.caller .permissionDenied s else k st

/-- The prelude of a stream operation (R207): dead instance, no token; a stream operation of another kind is refused. -/
def stream {α : Type} (c : Ctx) (known : DeviceConfig → Option α) (s : State)
    (k : α → Session → Except Stop State) : Except Stop State :=
  match heldSession c s with
  | .error e => .error e
  | .ok (l, ses) =>
    match known l.st with
    | none => refuse .wrongKind
    | some st => k st ses

end Sys2Proof.Machine
end

