-- ==== Sys2Proof/Machine/Guard.lean ====
section
/-! DEFINITION. The Session Guard of spec/20_memory.md R61 to R63: acquire, release, the grant to a blocked caller, and
the two operations of the table. -/

namespace Sys2Proof.Machine

open Sys2Proof

/-- The Session a granted `open` returns: `pos = 0`, `rd_buf` empty, `wr_buf` all NUL (R31, R190). -/
def newSession (cfg : Config) (token : Nat) (mode : Mode) : Session where
  token := token
  mode := mode
  pos := 0
  rdBuf := []
  wrBuf := List.replicate cfg.wrBufSize 0

/-- What a grant returns: the Session where the caller called `open` (R190), the Token where it called `acquire`. -/
def grantRet (token : Nat) (mode : Option Mode) : Ret :=
  match mode with
  | some _ => .session token
  | none => .token token

/-- A caller is granted a fresh token (R61): it becomes the holder, and its Session exists if it called `open`. -/
def grant (id : Nat) (w : Waiter) (s : State) : State :=
  ({ s with nextToken := s.nextToken + 1 }.modifyLive id fun l =>
    { l with holder := some s.nextToken, session := w.mode.map (newSession s.cfg s.nextToken) }).reply
      (.caller w.caller) (grantRet s.nextToken w.mode)

/-- The callers blocked on one device (R32). -/
def State.waiters (s : State) (id : Nat) : List Waiter := (s.devices[id]?.map Device.blocked).getD []

/-- Whether a caller is blocked in some `acquire`. -/
def State.isBlocked (s : State) (caller : Nat) : Bool :=
  s.devices.any fun d => d.blocked.any fun w => w.caller = caller

/-- A caller blocks (R61). -/
def block (id : Nat) (w : Waiter) (s : State) : State :=
  s.modifyDevice id fun d => { d with blocked := d.blocked ++ [w] }

/-- `acquire()` (R61): granted at once on a free guard, else the caller blocks; a blocked caller makes no call. -/
def acquire (id : Nat) (w : Waiter) (s : State) : Except Stop State :=
  match liveOf id s with
  | .error e => .error e
  | .ok l =>
    if l.holder = none then .ok (grant id w s)
    else if s.isBlocked w.caller then refuse .callerBlocked
    else .ok (block id w s)

/-- Which blocked caller a release grants: any of them, as the environment draws (R61, U9). -/
def grantIndex (s : State) (n : Nat) : Nat := s.env.grant % n

/-- After a release, one of the blocked callers, if there is one, is granted the token (R61). -/
def grantNext (id : Nat) (s : State) : State :=
  match (s.waiters id)[grantIndex s (s.waiters id).length]? with
  | none => s
  | some w =>
    grant id w (s.modifyDevice id fun d => { d with blocked := d.blocked.eraseIdx (grantIndex s (s.waiters id).length) })

/-- The guard becomes free; the Session is the window between acquire and release (R12), so it ends with it. -/
def freeGuard (id : Nat) (s : State) : State :=
  s.modifyLive id fun l => { l with holder := none, session := none }

/-- `release(Token)` (R62): only the holder's token; the releasing caller has its result before another is granted. -/
def release (c : Ctx) (s : State) : Except Stop State :=
  match liveOf c.inst s with
  | .error e => .error e
  | .ok l =>
    if l.holder = some c.token then .ok (grantNext c.inst ((freeGuard c.inst s).reply (.caller c.caller) .ok))
    else programmingError .notHolder

/-- `GUARD.Acquire` (R61). -/
def execGuardAcquire (w : Site) (s : State) : Out := finish (acquire w.inst ⟨w.caller, none⟩ s)

/-- `GUARD.Release` (R62). -/
def execGuardRelease (c : Ctx) (s : State) : Out := finish (release c s)

end Sys2Proof.Machine
end

