-- ==== Sys2Proof/Machine/Codec.lean ====
section
/-! DEFINITION. The Color Codec of spec/41_color_codec.md: the three pure functions R130, R131, R133 and the operations
that return their results. -/

namespace Sys2Proof.Machine

open Sys2Proof

/-- `decode(packed)` (R130). -/
def decodeColor (packed : Word) : ColorValue where
  r := ((packed >>> 16) &&& 0xFF#32).setWidth 8
  g := ((packed >>> 8) &&& 0xFF#32).setWidth 8
  b := (packed &&& 0xFF#32).setWidth 8

/-- `encode(c)` (R131): `(r<<16)|(g<<8)|b`. -/
def encodeColor (c : ColorValue) : Word :=
  (c.r.setWidth 32 <<< 16) ||| (c.g.setWidth 32 <<< 8) ||| c.b.setWidth 32

/-- `maxClkCycles / 256`, the clock cycles one channel step is worth (R133); both divisions truncate. -/
def dutyScale (period maxDivisor : Word) : Word := period / maxDivisor / BitVec.ofNat 32 channelSteps

/-- `scaleDuty(period, channelValue, maxDivisor)` (R133), divide before multiply; refused for divisor 0 (R138). -/
def scaleDuty (period : Word) (channelValue : Byte) (maxDivisor : Word) : Except Stop Word :=
  if maxDivisor = 0 then refuse .divisionByZero
  else .ok (dutyScale period maxDivisor * channelValue.setWidth 32)

/-- `CODEC.Decode` (R130). -/
def execCodecDecode (caller : Nat) (packed : Word) (s : State) : Out :=
  finish (returns caller (.color (decodeColor packed)) s)

/-- `CODEC.Encode` (R131). -/
def execCodecEncode (caller : Nat) (color : ColorValue) (s : State) : Out :=
  finish (returns caller (.u32 (encodeColor color)) s)

/-- `CODEC.ScaleDuty` (R133, R138). -/
def execCodecScaleDuty (caller : Nat) (period : Word) (channelValue : Byte) (maxDivisor : Word) (s : State) : Out :=
  finish ((scaleDuty period channelValue maxDivisor).bind fun d => returns caller (.u32 d) s)

end Sys2Proof.Machine
end

