-- ==== Sys2Proof/Machine/RgbCommands.lean ====
section
/-! DEFINITION. The RGB commands of spec/42_rgb_commands.md, R151 to R154, and the internal procedures
`RGB.ApplyColor` (R155, R157) and `RGB.ResetDuty` (R156). -/

namespace Sys2Proof.Machine

open Sys2Proof

/-- `RGB.ApplyColor(c)` (R155), with the Peripheral State it reads its period from: the three duties of one period, the
four writes in the order of R157, then `st.color`. The mixtures of old and new registers it passes through (R265, U22)
are `contentsDuring` and `pwmOutputsDuring`. -/
def applyColor (id : Nat) (rgb : RgbState) (c : ColorValue) (s : State) : Except Stop State := do
  let dr ← scaleDuty rgb.period c.r s.cfg.maxDivisor
  let dg ← scaleDuty rgb.period c.g s.cfg.maxDivisor
  let db ← scaleDuty rgb.period c.b s.cfg.maxDivisor
  let s1 ← writeRegister id s.cfg.offDutyR (.word dr) s
  let s2 ← writeRegister id s.cfg.offDutyG (.word dg) s1
  let s3 ← writeRegister id s.cfg.offDutyB (.word db) s2
  let s4 ← writeRegister id s.cfg.offPeriod (.word rgb.period) s3
  .ok (s4.setSt id (.rgb { rgb with color := c }))

/-- `RGB.ResetDuty()` (R156): three writes of 0; `PERIOD` and `st` untouched. It passes through mixtures too (U22). -/
def resetDuty (id : Nat) (s : State) : Except Stop State := do
  let s1 ← writeRegister id s.cfg.offDutyR (.word 0) s
  let s2 ← writeRegister id s.cfg.offDutyG (.word 0) s1
  writeRegister id s.cfg.offDutyB (.word 0) s2

/-- `RGB.GetValue` (R151): from `st.color`, no register access. -/
def execRgbGetValue (c : Ctx) (priv : Bool) (s : State) : Out :=
  finish (command c priv false DeviceConfig.rgb? s fun rgb => copyOut c.caller (.u32 (encodeColor rgb.color)) s)

/-- `RGB.SetValue` (R152). -/
def execRgbSetValue (c : Ctx) (priv : Bool) (packed : Word) (s : State) : Out :=
  finish (command c priv true DeviceConfig.rgb? s fun rgb =>
    copyIn c.caller s ((applyColor c.inst rgb (decodeColor packed) s).bind (returns c.caller .ok)))

/-- `RGB.GetPeriod` (R153): from `st.period`, no register access. -/
def execRgbGetPeriod (c : Ctx) (priv : Bool) (s : State) : Out :=
  finish (command c priv false DeviceConfig.rgb? s fun rgb => copyOut c.caller (.u32 rgb.period) s)

/-- `RGB.SetPeriod(0)` (R154, D13): refused, or `InvalidArgument` where the configuration says so. -/
def setPeriodZero (caller : Nat) (s : State) : Except Stop State :=
  match s.cfg.periodZero with
  | .refuse => refuse .periodInvariant
  | .invalidArgument => raises caller .invalidArgument s

/-- `RGB.SetPeriod` (R154): `st.period` only, no register access. -/
def execRgbSetPeriod (c : Ctx) (priv : Bool) (p : Word) (s : State) : Out :=
  finish (command c priv true DeviceConfig.rgb? s fun rgb =>
    copyIn c.caller s (if p = 0 then setPeriodZero c.caller s
      else returns c.caller .ok (s.setSt c.inst (.rgb { rgb with period := p }))))

end Sys2Proof.Machine
end

