-- ==== Sys2Proof/Machine/HostCalls.lean ====
section
/-! DEFINITION. The host's operations: attach, detach and shutdown (spec/70_reset_and_hazards.md R250 to R254) and the
interruption signal (spec/60_exceptions.md R227). -/

namespace Sys2Proof.Machine

open Sys2Proof

/-- The device an attach creates (R250): the kind's defaults, a free guard, no session, no event. -/
def newDevice (cfg : Config) (k : Kind) (base size : Nat) : Device where
  base := base
  extent := size
  life := .attached ⟨.initial cfg k, none, none⟩
  blocked := []
  events := []

/-- Whether a block overlaps the register block of a live device (R40). -/
def overlapsLive (s : State) (base size : Nat) : Bool :=
  s.devices.any fun d => d.live?.isSome && decide (base < d.base + d.extent ∧ d.base < base + size)

/-- The error of the taxonomy for a mapping failure (R251). -/
def MapError.err (e : MapError) : Err :=
  match e with
  | .resourceExhausted => .resourceExhausted
  | .deviceUnavailable => .deviceUnavailable

/-- `attach(kind, baseAddress, size)` (R250, R251): no register access. The environment draws whether it fails and how. A
block that overlaps a live device's cannot be mapped ("Two instances never share a register block", R40), so that an
attach of it fails under every draw (notes/assumptions/8.md). -/
def attach (k : Kind) (base size : Nat) (s : State) : Except Stop State :=
  if covers s.cfg k size then
    match s.env.attach with
    | .resourceExhausted => .ok (s.raise .host .resourceExhausted)
    | .deviceUnavailable => .ok (s.raise .host .deviceUnavailable)
    | .succeeds =>
      if overlapsLive s base size then .ok (s.raise .host s.env.mapError.err)
      else .ok ({ s with devices := s.devices ++ [newDevice s.cfg k base size] }.reply .host (.device s.devices.length))
  else refuse .extent

/-- The safe default at the end of a lifetime (R252, R253): RGB duties 0, LED 0x00 unmasked, Switch no access. -/
def driveSafe (id : Nat) (k : Kind) (s : State) : Except Stop State :=
  match k with
  | .rgb => resetDuty id s
  | .led => writeRegister id s.cfg.offLedData (.byte 0x00) s
  | .sw => .ok s

/-- `inst.life <- Dead`: Peripheral State, guard and session are destroyed (R36, R252); blocked callers stay (R254). -/
def kill (id : Nat) (k : Kind) (s : State) : State := s.modifyDevice id fun d => { d with life := .dead k }

/-- The end of a lifetime, by detach or by shutdown, whatever session is open (R65, R252, R253). -/
def endLifetime (id : Nat) (s : State) : Except Stop State :=
  match liveOf id s with
  | .error e => .error e
  | .ok l => (driveSafe id l.st.kind s).bind fun s' => .ok ((kill id l.st.kind s').reply .host .ok)

/-- `HOST.Attach` (R250, R251). -/
def execHostAttach (k : Kind) (base size : Nat) (s : State) : Out := finish (attach k base size s)

/-- `HOST.Detach` (R252). -/
def execHostDetach (id : Nat) (s : State) : Out := finish (endLifetime id s)

/-- `HOST.Shutdown` (R253). -/
def execHostShutdown (id : Nat) (s : State) : Out := finish (endLifetime id s)

/-- A caller leaves the set of blocked callers. -/
def unblock (caller : Nat) (s : State) : State :=
  { s with devices := s.devices.map fun d => { d with blocked := d.blocked.filter fun w => w.caller ≠ caller } }

/-- `HOST.Interrupt` (R227): a blocked caller's `acquire` returns `Interrupted` and it leaves the set; no effect on a
caller that is not blocked. -/
def execHostInterrupt (caller : Nat) (s : State) : Out :=
  .next ((if s.isBlocked caller then (unblock caller s).raise (.caller caller) .interrupted else s).reply .host .ok)

end Sys2Proof.Machine
end

