-- ==== Sys2Proof/Machine/RegisterFile.lean ====
section
/-! DEFINITION. The Register File operations of spec/40_register_file.md, R110 to R113, as operations of the table. -/

namespace Sys2Proof.Machine

open Sys2Proof

/-- `RF.Read` (R110). -/
def execRfRead (w : Site) (offset : Nat) (width : Width) (s : State) : Out :=
  finish (match readRegister w.inst offset width s with
    | .error e => .error e
    | .ok (v, s') => returns w.caller v.toRet s')

/-- `RF.Write` (R111). -/
def execRfWrite (w : Site) (offset : Nat) (width : Width) (value : Word) (s : State) : Out :=
  finish ((writeRegister w.inst offset (.ofWord width value) s).bind (returns w.caller .ok))

/-- `RF.WriteMasked8` (R112). -/
def execRfWriteMasked8 (w : Site) (offset : Nat) (value mask : Byte) (s : State) : Out :=
  finish ((writeMasked8 w.inst offset value mask s).bind (returns w.caller .ok))

/-- `RF.Barrier` (R113): no errors, and no state but the event history. On a device that is not Attached, "a direct
Register File call is `fault ProgrammingError(lifetime)`" (R254; R65, U14). -/
def execRfBarrier (w : Site) (s : State) : Out :=
  finish (match s.live? w.inst with
    | none => programmingError .lifetime
    | some _ => returns w.caller .ok (barrier w.inst s))

end Sys2Proof.Machine
end

