-- ==== Sys2Proof/Machine/LedCommands.lean ====
section
/-! DEFINITION. The LED commands of spec/43_led_switch_commands.md, R170 to R175, each over the common command procedure
(spec/42_rgb_commands.md R150). -/

namespace Sys2Proof.Machine

open Sys2Proof

/-- `LED.WritePattern(v)` (R175), with the Peripheral State it reads its mask from. -/
def writePattern (id : Nat) (led : LedState) (v : Byte) (s : State) : Except Stop State :=
  writeMasked8 id s.cfg.offLedData v led.mask s

/-- `LED.GetInit` (R170). -/
def execLedGetInit (c : Ctx) (priv : Bool) (s : State) : Out :=
  finish (command c priv false DeviceConfig.led? s fun led => copyOut c.caller (.u8 led.initValue) s)

/-- `LED.SetInit` (R171): no register access, the value unmasked. -/
def execLedSetInit (c : Ctx) (priv : Bool) (v : Byte) (s : State) : Out :=
  finish (command c priv true DeviceConfig.led? s fun led =>
    copyIn c.caller s (returns c.caller .ok (s.setSt c.inst (.led { led with initValue := v }))))

/-- `LED.GetMask` (R172). -/
def execLedGetMask (c : Ctx) (priv : Bool) (s : State) : Out :=
  finish (command c priv false DeviceConfig.led? s fun led => copyOut c.caller (.u8 led.mask) s)

/-- `LED.SetMask` (R173): no register access. -/
def execLedSetMask (c : Ctx) (priv : Bool) (m : Byte) (s : State) : Out :=
  finish (command c priv true DeviceConfig.led? s fun led =>
    copyIn c.caller s (returns c.caller .ok (s.setSt c.inst (.led { led with mask := m }))))

/-- `LED.Reset` (R174): no transfer, so no `IOFault`. -/
def execLedReset (c : Ctx) (priv : Bool) (s : State) : Out :=
  finish (command c priv false DeviceConfig.led? s fun led =>
    (writePattern c.inst led led.initValue s).bind (returns c.caller .ok))

end Sys2Proof.Machine
end

