-- ==== Sys2Proof/Machine/SwitchCommands.lean ====
section
/-! DEFINITION. The Switch commands of spec/43_led_switch_commands.md, R176 to R179. -/

namespace Sys2Proof.Machine

open Sys2Proof

/-- The low byte of a register value; a read of width 8 returns a byte (R110). -/
def RegVal.toByte (v : RegVal) : Byte :=
  match v with
  | .byte b => b
  | .word w => w.setWidth 8

/-- `SW.ReadMasked()` (R179): one 8-bit read, and-ed with the mask of the Peripheral State. -/
def readMasked (id : Nat) (sw : SwState) (s : State) : Except Stop (Byte × State) :=
  match readRegister id s.cfg.offSwData .w8 s with
  | .error e => .error e
  | .ok (v, s') => .ok (v.toByte &&& sw.mask, s')

/-- `SW.GetMask` (R176). -/
def execSwGetMask (c : Ctx) (priv : Bool) (s : State) : Out :=
  finish (command c priv false DeviceConfig.sw? s fun sw => copyOut c.caller (.u8 sw.mask) s)

/-- `SW.SetMask` (R177): no register access. -/
def execSwSetMask (c : Ctx) (priv : Bool) (m : Byte) (s : State) : Out :=
  finish (command c priv true DeviceConfig.sw? s fun _ =>
    copyIn c.caller s (returns c.caller .ok (s.setSt c.inst (.sw ⟨m⟩))))

/-- `SW.GetValue` (R178): the register read is made before the result transfer can fail. -/
def execSwGetValue (c : Ctx) (priv : Bool) (s : State) : Out :=
  finish (command c priv false DeviceConfig.sw? s fun sw =>
    match readMasked c.inst sw s with
    | .error e => .error e
    | .ok (v, s') => copyOut c.caller (.u8 v) s')

end Sys2Proof.Machine
end

