-- ==== Sys2Proof/Machine/Text.lean ====
section
/-! DEFINITION. The text formats of the Stream Adapter (spec/30_encoding.md R87 to R90, spec/44_stream_adapter.md R196)
as byte strings. -/

namespace Sys2Proof.Machine

open Sys2Proof

/-- The byte of a hexadecimal digit below 16: `0` to `9`, then `a` to `f` (R87: lower case). -/
def hexDigit (n : Nat) : Byte := BitVec.ofNat 8 (if n < 10 then 0x30 + n else 0x57 + n)

/-- `hex(v)`: lower-case hexadecimal, no leading zeros, at least one digit (R87). -/
def hexText (v : Byte) : List Byte :=
  if v.toNat < 16 then [hexDigit v.toNat] else [hexDigit (v.toNat / 16), hexDigit (v.toNat % 16)]

/-- `dec(v)`: decimal, no leading zeros, at least one digit (R90). -/
def decText (v : Byte) : List Byte :=
  if v.toNat < 10 then [hexDigit v.toNat]
  else if v.toNat < 100 then [hexDigit (v.toNat / 10), hexDigit (v.toNat % 10)]
  else [hexDigit (v.toNat / 100), hexDigit (v.toNat / 10 % 10), hexDigit (v.toNat % 10)]

/-- The RGB read text (R87): `"0x" hex(r) " 0x" hex(g) " 0x" hex(b) "\n"`. -/
def colorText (c : ColorValue) : List Byte :=
  [0x30, 0x78] ++ hexText c.r ++ [0x20, 0x30, 0x78] ++ hexText c.g ++ [0x20, 0x30, 0x78] ++ hexText c.b ++ [0x0A]

/-- The Switch read text (R90): `dec(v) "\n"`. -/
def switchText (v : Byte) : List Byte := decText v ++ [0x0A]

/-- The content of a write buffer: up to, not including, the first NUL (R89). -/
def content (buf : List Byte) : List Byte := buf.takeWhile fun b => b ≠ 0

/-- The six whitespace bytes that are trimmed (R89). -/
def isSpace (b : Byte) : Bool := b = 0x20 || b = 0x09 || b = 0x0A || b = 0x0B || b = 0x0C || b = 0x0D

/-- The trimmed content of a write buffer (R89). -/
def trimmed (buf : List Byte) : List Byte :=
  (((content buf).dropWhile isSpace).reverse.dropWhile isSpace).reverse

/-- The value of a hexadecimal digit of either case (R88). -/
def hexValue (b : Byte) : Option Nat :=
  if 0x30 ≤ b.toNat ∧ b.toNat ≤ 0x39 then some (b.toNat - 0x30)
  else if 0x61 ≤ b.toNat ∧ b.toNat ≤ 0x66 then some (b.toNat - 0x57)
  else if 0x41 ≤ b.toNat ∧ b.toNat ≤ 0x46 then some (b.toNat - 0x37)
  else none

/-- Two hexadecimal digits: `16 * val(H1) + val(H2)` (R88). -/
def hexPair (h1 h2 : Byte) : Option Byte :=
  match hexValue h1, hexValue h2 with
  | some a, some b => some (BitVec.ofNat 8 (16 * a + b))
  | _, _ => none

/-- `parse(s)` (R196): the layout of R88, byte by byte, or a parse failure. -/
def parseColor (s : List Byte) : Option ColorValue :=
  match s with
  | [z0, x0, r1, r2, s0, z1, x1, g1, g2, s1, z2, x2, b1, b2] =>
    if [z0, x0, s0, z1, x1, s1, z2, x2] = [0x30, 0x78, 0x20, 0x30, 0x78, 0x20, 0x30, 0x78] then
      match hexPair r1 r2, hexPair g1 g2, hexPair b1 b2 with
      | some r, some g, some b => some ⟨r, g, b⟩
      | _, _, _ => none
    else none
  | _ => none

/-- `wr_buf` with bytes `offset .. offset + n - 1` replaced by `data` (R195). -/
def overlay (buf : List Byte) (offset : Nat) (data : List Byte) : List Byte :=
  buf.take offset ++ data ++ buf.drop (offset + data.length)

/-- The bytes a stream read returns: at most `cap` of the buffer from `offset` on, none beyond its end (R194, R197). -/
def readSlice (buf : List Byte) (offset cap : Nat) : List Byte := (buf.drop offset).take cap

end Sys2Proof.Machine
end

