-- ==== Sys2Proof/Machine/Streams.lean ====
section
/-! DEFINITION. The Stream Adapter of spec/44_stream_adapter.md: open, close, read, write and seek of the three kinds,
R190 to R207. -/

namespace Sys2Proof.Machine

open Sys2Proof

/-! ## Shared steps -/

/-- `open(mode)` (R190): dead instance, mode, then `acquire`, which may block. -/
def openStream (k : Kind) (w : Site) (mode : Mode) (s : State) : Except Stop State :=
  match liveOf w.inst s with
  | .error e => .error e
  | .ok l =>
    if l.st.kind ≠ k then refuse .wrongKind
    else if modeAllowed s.cfg k mode then acquire w.inst ⟨w.caller, some mode⟩ s
    else raises w.caller .invalidArgument s

/-- `close(ses)` (R191): the Session is destroyed and its token released. -/
def closeStream (k : Kind) (c : Ctx) (s : State) : Except Stop State :=
  match heldSession c s with
  | .error e => .error e
  | .ok (l, _) => if l.st.kind ≠ k then refuse .wrongKind else release c s

/-- `ses.pos <- n` (R201). -/
def setPos (id n : Nat) (s : State) : State := s.modifySession id fun ses => { ses with pos := n }

/-- The rest of a stream read once the text stands in `rd_buf` (R194, R197, R201): the slice is returned, the position
is behind it. -/
def finishRead (c : Ctx) (offset cap : Nat) (buf : List Byte) (s : State) : Except Stop State :=
  returns c.caller (.bytes (readSlice buf offset cap))
    (s.modifySession c.inst fun ses => { ses with rdBuf := buf, pos := offset + (readSlice buf offset cap).length })

/-- The offset computation of a seek (R199): `none` for `End` and for a negative result. -/
def seekTarget (pos : Nat) (offset : Int) (whence : Whence) : Option Nat :=
  match whence with
  | .fromStart => if offset < 0 then none else some offset.toNat
  | .fromCurrent => if (pos : Int) + offset < 0 then none else some ((pos : Int) + offset).toNat
  | .fromEnd => none

/-- The rest of a seek after its reset (R199, R200). -/
def finishSeek (c : Ctx) (pos : Nat) (offset : Int) (whence : Whence) (s : State) : Except Stop State :=
  match seekTarget pos offset whence with
  | none => raises c.caller .invalidArgument s
  | some n => returns c.caller (.position n) (setPos c.inst n s)

/-- The session's mode lets the operation go on, or `refuse(mode)` (R204). -/
def requireMode (ok : Bool) (k : Except Stop State) : Except Stop State := if ok then k else refuse .mode

/-! ## LED -/

/-- `LED.Open` (R190). -/
def execLedOpen (w : Site) (mode : Mode) (s : State) : Out := finish (openStream .led w mode s)

/-- `LED.Close` (R191). -/
def execLedClose (c : Ctx) (s : State) : Out := finish (closeStream .led c s)

/-- `LED.StreamRead` (R193): always `IOFault`. -/
def execLedStreamRead (c : Ctx) (_offset _cap : Nat) (s : State) : Out :=
  finish (stream c DeviceConfig.led? s fun _ _ => raises c.caller .ioFault s)

/-- The patterns of an LED write: one masked write per byte other than NUL, in order (R192). -/
def writePatterns (id : Nat) (led : LedState) (data : List Byte) (s : State) : Except Stop State :=
  match data with
  | [] => .ok s
  | b :: rest =>
    if b = 0 then writePatterns id led rest s
    else (writePattern id led b s).bind (writePatterns id led rest)

/-- The number of bytes of an LED write that are not skipped (R192). -/
def patternCount (data : List Byte) : Nat := (data.filter fun b => b ≠ 0).length

/-- `LED.StreamWrite` (R192). -/
def execLedStreamWrite (c : Ctx) (offset : Nat) (data : List Byte) (s : State) : Out :=
  finish (stream c DeviceConfig.led? s fun led ses =>
    requireMode (Mode.canWrite ses.mode) (copyIn c.caller s
      ((writePatterns c.inst led data s).bind fun s' =>
        returns c.caller (.count (patternCount data)) (setPos c.inst (offset + patternCount data) s'))))

/-- `LED.Seek` (R199): `LED.WritePattern(st.initValue)`, then the offset. -/
def execLedSeek (c : Ctx) (offset : Int) (whence : Whence) (s : State) : Out :=
  finish (stream c DeviceConfig.led? s fun led ses =>
    (writePattern c.inst led led.initValue s).bind (finishSeek c ses.pos offset whence))

/-! ## RGB -/

/-- `RGB.Open` (R190). -/
def execRgbOpen (w : Site) (mode : Mode) (s : State) : Out := finish (openStream .rgb w mode s)

/-- `RGB.Close` (R191). -/
def execRgbClose (c : Ctx) (s : State) : Out := finish (closeStream .rgb c s)

/-- `RGB.StreamRead` (R194). -/
def execRgbStreamRead (c : Ctx) (offset cap : Nat) (s : State) : Out :=
  finish (stream c DeviceConfig.rgb? s fun rgb ses =>
    requireMode (Mode.canRead ses.mode) (copyIn c.caller s
      (finishRead c offset cap (if offset = 0 then colorText rgb.color else ses.rdBuf) s)))

/-- `ses.wr_buf <- tmp ; ses.pos <- offset + n` (R195). -/
def storeWrite (id : Nat) (tmp : List Byte) (pos : Nat) (s : State) : State :=
  s.modifySession id fun ses => { ses with wrBuf := tmp, pos := pos }

/-- The part of an RGB stream write that follows the fit check (R195), on the copy `tmp`. -/
def rgbWriteText (c : Ctx) (rgb : RgbState) (tmp : List Byte) (offset n : Nat) (s : State) : Except Stop State :=
  if (trimmed tmp).length > rgbTextLen then raises c.caller .invalidFormat s
  else if (trimmed tmp).length = rgbTextLen then
    match parseColor (trimmed tmp) with
    | none => raises c.caller .invalidFormat s
    | some col => (applyColor c.inst rgb col (storeWrite c.inst tmp (offset + n) s)).bind (returns c.caller (.count n))
  else returns c.caller (.count n) (storeWrite c.inst tmp (offset + n) s)

/-- `RGB.StreamWrite` (R195); no privilege is checked (R203). -/
def execRgbStreamWrite (c : Ctx) (offset : Nat) (data : List Byte) (s : State) : Out :=
  finish (stream c DeviceConfig.rgb? s fun rgb ses =>
    requireMode (Mode.canWrite ses.mode) (copyIn c.caller s
      (if offset + data.length > s.cfg.wrBufSize then raises c.caller .invalidFormat s
       else rgbWriteText c rgb (overlay ses.wrBuf offset data) offset data.length s)))

/-- `RGB.Seek` (R199): `RGB.ResetDuty()`, then the offset. -/
def execRgbSeek (c : Ctx) (offset : Int) (whence : Whence) (s : State) : Out :=
  finish (stream c DeviceConfig.rgb? s fun _ ses =>
    (resetDuty c.inst s).bind (finishSeek c ses.pos offset whence))

/-! ## Switch -/

/-- `SW.Open` (R190). -/
def execSwOpen (w : Site) (mode : Mode) (s : State) : Out := finish (openStream .sw w mode s)

/-- `SW.Close` (R191). -/
def execSwClose (c : Ctx) (s : State) : Out := finish (closeStream .sw c s)

/-- `SW.StreamRead` (R197): one register read at offset 0, none otherwise. -/
def execSwStreamRead (c : Ctx) (offset cap : Nat) (s : State) : Out :=
  finish (stream c DeviceConfig.sw? s fun sw ses =>
    requireMode (Mode.canRead ses.mode) (copyIn c.caller s
      (if offset = 0 then
        match readMasked c.inst sw s with
        | .error e => .error e
        | .ok (v, s') => finishRead c offset cap (switchText v) s'
       else finishRead c offset cap ses.rdBuf s)))

/-- `SW.StreamWrite` (R198): always `InvalidArgument`. -/
def execSwStreamWrite (c : Ctx) (_offset : Nat) (_data : List Byte) (s : State) : Out :=
  finish (stream c DeviceConfig.sw? s fun _ _ => raises c.caller .invalidArgument s)

/-- `SW.Seek` (R199): no reset (R181). -/
def execSwSeek (c : Ctx) (offset : Int) (whence : Whence) (s : State) : Out :=
  finish (stream c DeviceConfig.sw? s fun _ ses => finishSeek c ses.pos offset whence s)

end Sys2Proof.Machine
end

