-- ==== Sys2Proof/Machine/Dispatch.lean ====
section
/-! DEFINITION. One arm per operation: each is one call of the operation's meaning. -/

namespace Sys2Proof.Machine

open Sys2Proof

-- The effect of one operation on the state.
def exec (i : Instr) (s : State) : Host.Outcome State Fault Refusal :=
  match i with
  | .ledGetInit c priv => Sys2Proof.Machine.execLedGetInit c priv s
  | .ledSetInit c priv v => Sys2Proof.Machine.execLedSetInit c priv v s
  | .ledGetMask c priv => Sys2Proof.Machine.execLedGetMask c priv s
  | .ledSetMask c priv m => Sys2Proof.Machine.execLedSetMask c priv m s
  | .ledReset c priv => Sys2Proof.Machine.execLedReset c priv s
  | .rgbGetValue c priv => Sys2Proof.Machine.execRgbGetValue c priv s
  | .rgbSetValue c priv packed => Sys2Proof.Machine.execRgbSetValue c priv packed s
  | .rgbGetPeriod c priv => Sys2Proof.Machine.execRgbGetPeriod c priv s
  | .rgbSetPeriod c priv p => Sys2Proof.Machine.execRgbSetPeriod c priv p s
  | .swGetMask c priv => Sys2Proof.Machine.execSwGetMask c priv s
  | .swSetMask c priv m => Sys2Proof.Machine.execSwSetMask c priv m s
  | .swGetValue c priv => Sys2Proof.Machine.execSwGetValue c priv s
  | .rfRead w offset width => Sys2Proof.Machine.execRfRead w offset width s
  | .rfWrite w offset width value => Sys2Proof.Machine.execRfWrite w offset width value s
  | .rfWriteMasked8 w offset value mask => Sys2Proof.Machine.execRfWriteMasked8 w offset value mask s
  | .rfBarrier w => Sys2Proof.Machine.execRfBarrier w s
  | .codecDecode caller packed => Sys2Proof.Machine.execCodecDecode caller packed s
  | .codecEncode caller color => Sys2Proof.Machine.execCodecEncode caller color s
  | .codecScaleDuty caller period ch d => Sys2Proof.Machine.execCodecScaleDuty caller period ch d s
  | .guardAcquire w => Sys2Proof.Machine.execGuardAcquire w s
  | .guardRelease c => Sys2Proof.Machine.execGuardRelease c s
  | .ledOpen w mode => Sys2Proof.Machine.execLedOpen w mode s
  | .ledClose c => Sys2Proof.Machine.execLedClose c s
  | .ledStreamRead c offset cap => Sys2Proof.Machine.execLedStreamRead c offset cap s
  | .ledStreamWrite c offset data => Sys2Proof.Machine.execLedStreamWrite c offset data s
  | .ledSeek c offset whence => Sys2Proof.Machine.execLedSeek c offset whence s
  | .rgbOpen w mode => Sys2Proof.Machine.execRgbOpen w mode s
  | .rgbClose c => Sys2Proof.Machine.execRgbClose c s
  | .rgbStreamRead c offset cap => Sys2Proof.Machine.execRgbStreamRead c offset cap s
  | .rgbStreamWrite c offset data => Sys2Proof.Machine.execRgbStreamWrite c offset data s
  | .rgbSeek c offset whence => Sys2Proof.Machine.execRgbSeek c offset whence s
  | .swOpen w mode => Sys2Proof.Machine.execSwOpen w mode s
  | .swClose c => Sys2Proof.Machine.execSwClose c s
  | .swStreamRead c offset cap => Sys2Proof.Machine.execSwStreamRead c offset cap s
  | .swStreamWrite c offset data => Sys2Proof.Machine.execSwStreamWrite c offset data s
  | .swSeek c offset whence => Sys2Proof.Machine.execSwSeek c offset whence s
  | .hostAttach k base size => Sys2Proof.Machine.execHostAttach k base size s
  | .hostDetach id => Sys2Proof.Machine.execHostDetach id s
  | .hostShutdown id => Sys2Proof.Machine.execHostShutdown id s
  | .hostInterrupt caller => Sys2Proof.Machine.execHostInterrupt caller s

end Sys2Proof.Machine
end

