-- ==== Sys2Proof/WellFormed.lean ====
section
/-! DEFINITION. The well-formedness of an operation: what the operand types leave open. The one such check of the spec
is R86 and R111: "a value wider than the register cannot be passed". -/

namespace Sys2Proof

/-- A value fits a register of the width (R86: "`value` is a u8 when `width` is 8 and a u32 when it is 32"). -/
def Width.fits (w : Width) (v : Word) : Bool :=
  match w with
  | .w8 => decide (v.toNat < 256)
  | .w32 => true

/-- The operation can be expressed as the spec gives its operands. -/
def Instr.wf (i : Instr) : Bool :=
  match i with
  | .rfWrite _ _ width value => width.fits value
  | .ledGetInit _ _ | .ledSetInit _ _ _ | .ledGetMask _ _ | .ledSetMask _ _ _ | .ledReset _ _ => true
  | .rgbGetValue _ _ | .rgbSetValue _ _ _ | .rgbGetPeriod _ _ | .rgbSetPeriod _ _ _ => true
  | .swGetMask _ _ | .swSetMask _ _ _ | .swGetValue _ _ => true
  | .rfRead _ _ _ | .rfWriteMasked8 _ _ _ _ | .rfBarrier _ => true
  | .codecDecode _ _ | .codecEncode _ _ | .codecScaleDuty _ _ _ _ => true
  | .guardAcquire _ | .guardRelease _ => true
  | .ledOpen _ _ | .ledClose _ | .ledStreamRead _ _ _ | .ledStreamWrite _ _ _ | .ledSeek _ _ _ => true
  | .rgbOpen _ _ | .rgbClose _ | .rgbStreamRead _ _ _ | .rgbStreamWrite _ _ _ | .rgbSeek _ _ _ => true
  | .swOpen _ _ | .swClose _ | .swStreamRead _ _ _ | .swStreamWrite _ _ _ | .swSeek _ _ _ => true
  | .hostAttach _ _ _ | .hostDetach _ | .hostShutdown _ | .hostInterrupt _ => true

end Sys2Proof
end

