-- ==== Sys2Proof/Decode.lean ====
section
/-! DEFINITION. The decoder: from a call's form, 16-bit code and operands to an operation or a named rejection, total on
every call; then the encoder. The codes are spec/30_encoding.md R82, R83 (`CMD16`) and R94 (`CALL16`). -/

namespace Sys2Proof

/-- Why a call is no operation of the opcode table. -/
inductive Reject where
  /-- a command code outside R83: the Command Handler answers it with `InvalidCommand` (R84) -/
  | unknownCommand
  /-- a selector outside R94: not an operation of the block (spec/93_implementation_defined.md section 2) -/
  | unknownSelector
  /-- an 8-bit register write with a value above 255 (R111: "a value wider than the register cannot be passed") -/
  | valueTooWide
  deriving DecidableEq, Repr

/-- `magic`, or `group`: bits 15:8 of a code (R82, R94). -/
def codeGroup (code : Half) : Nat := (code.extractLsb' 8 8).toNat

/-- `index`: bits 7:0 of a code (R82, R94). -/
def codeIndex (code : Half) : Nat := (code.extractLsb' 0 8).toNat

/-- The session operands of a call. -/
def Operands.ctx (o : Operands) : Ctx := ⟨o.inst, o.caller, o.token⟩

/-- The device and caller of a call. -/
def Operands.site (o : Operands) : Site := ⟨o.inst, o.caller⟩

/-- Magic 0x4C `'L'` (R83). -/
def decodeLedCommand (index : Nat) (o : Operands) : Except Reject Instr :=
  match index with
  | 0 => .ok (.ledGetInit o.ctx o.priv)
  | 1 => .ok (.ledSetInit o.ctx o.priv o.arg8)
  | 2 => .ok (.ledGetMask o.ctx o.priv)
  | 3 => .ok (.ledSetMask o.ctx o.priv o.arg8)
  | 4 => .ok (.ledReset o.ctx o.priv)
  | _ => .error .unknownCommand

/-- Magic 0x52 `'R'` (R83). -/
def decodeRgbCommand (index : Nat) (o : Operands) : Except Reject Instr :=
  match index with
  | 0 => .ok (.rgbGetValue o.ctx o.priv)
  | 1 => .ok (.rgbSetValue o.ctx o.priv o.arg32)
  | 2 => .ok (.rgbGetPeriod o.ctx o.priv)
  | 3 => .ok (.rgbSetPeriod o.ctx o.priv o.arg32)
  | _ => .error .unknownCommand

/-- Magic 0x53 `'S'` (R83). -/
def decodeSwCommand (index : Nat) (o : Operands) : Except Reject Instr :=
  match index with
  | 0 => .ok (.swGetMask o.ctx o.priv)
  | 1 => .ok (.swSetMask o.ctx o.priv o.arg8)
  | 2 => .ok (.swGetValue o.ctx o.priv)
  | _ => .error .unknownCommand

/-- The command codes of R83; every other code is unknown (R84), whichever magic it has. -/
def decodeCommand (code : Half) (o : Operands) : Except Reject Instr :=
  match codeGroup code with
  | 0x4C => decodeLedCommand (codeIndex code) o
  | 0x52 => decodeRgbCommand (codeIndex code) o
  | 0x53 => decodeSwCommand (codeIndex code) o
  | _ => .error .unknownCommand

/-- Group 0x46 `'F'`, the Register File (R94). -/
def decodeRfCall (index : Nat) (o : Operands) : Except Reject Instr :=
  match index with
  | 0 => .ok (.rfRead o.site o.offset o.width)
  | 1 => if o.width.fits o.arg32 then .ok (.rfWrite o.site o.offset o.width o.arg32) else .error .valueTooWide
  | 2 => .ok (.rfWriteMasked8 o.site o.offset o.arg8 o.mask8)
  | 3 => .ok (.rfBarrier o.site)
  | _ => .error .unknownSelector

/-- Group 0x43 `'C'`, the codec (R94). -/
def decodeCodecCall (index : Nat) (o : Operands) : Except Reject Instr :=
  match index with
  | 0 => .ok (.codecDecode o.caller o.arg32)
  | 1 => .ok (.codecEncode o.caller o.color)
  | 2 => .ok (.codecScaleDuty o.caller o.arg32 o.arg8 o.divisor)
  | _ => .error .unknownSelector

/-- Group 0x47 `'G'`, the Session Guard (R94). -/
def decodeGuardCall (index : Nat) (o : Operands) : Except Reject Instr :=
  match index with
  | 0 => .ok (.guardAcquire o.site)
  | 1 => .ok (.guardRelease o.ctx)
  | _ => .error .unknownSelector

/-- Group 0x6C `'l'`, the LED stream (R94). -/
def decodeLedCall (index : Nat) (o : Operands) : Except Reject Instr :=
  match index with
  | 0 => .ok (.ledOpen o.site o.mode)
  | 1 => .ok (.ledClose o.ctx)
  | 2 => .ok (.ledStreamRead o.ctx o.offset o.cap)
  | 3 => .ok (.ledStreamWrite o.ctx o.offset o.data)
  | 4 => .ok (.ledSeek o.ctx o.seek o.whence)
  | _ => .error .unknownSelector

/-- Group 0x72 `'r'`, the RGB stream (R94). -/
def decodeRgbCall (index : Nat) (o : Operands) : Except Reject Instr :=
  match index with
  | 0 => .ok (.rgbOpen o.site o.mode)
  | 1 => .ok (.rgbClose o.ctx)
  | 2 => .ok (.rgbStreamRead o.ctx o.offset o.cap)
  | 3 => .ok (.rgbStreamWrite o.ctx o.offset o.data)
  | 4 => .ok (.rgbSeek o.ctx o.seek o.whence)
  | _ => .error .unknownSelector

/-- Group 0x73 `'s'`, the Switch stream (R94). -/
def decodeSwCall (index : Nat) (o : Operands) : Except Reject Instr :=
  match index with
  | 0 => .ok (.swOpen o.site o.mode)
  | 1 => .ok (.swClose o.ctx)
  | 2 => .ok (.swStreamRead o.ctx o.offset o.cap)
  | 3 => .ok (.swStreamWrite o.ctx o.offset o.data)
  | 4 => .ok (.swSeek o.ctx o.seek o.whence)
  | _ => .error .unknownSelector

/-- Group 0x41 `'A'`, the host (R94). -/
def decodeHostCall (index : Nat) (o : Operands) : Except Reject Instr :=
  match index with
  | 0 => .ok (.hostAttach o.kind o.base o.size)
  | 1 => .ok (.hostDetach o.inst)
  | 2 => .ok (.hostShutdown o.inst)
  | 3 => .ok (.hostInterrupt o.caller)
  | _ => .error .unknownSelector

/-- The selectors of R94. -/
def decodeOperation (code : Half) (o : Operands) : Except Reject Instr :=
  match codeGroup code with
  | 0x46 => decodeRfCall (codeIndex code) o
  | 0x43 => decodeCodecCall (codeIndex code) o
  | 0x47 => decodeGuardCall (codeIndex code) o
  | 0x6C => decodeLedCall (codeIndex code) o
  | 0x72 => decodeRgbCall (codeIndex code) o
  | 0x73 => decodeSwCall (codeIndex code) o
  | 0x41 => decodeHostCall (codeIndex code) o
  | _ => .error .unknownSelector

/-- The decoder. A command call is looked up among the command codes only: "A Command Handler that receives one of [the
selectors] as a command code treats it as unknown" (R94). -/
def decode (w : CallWord) : Except Reject Instr :=
  match w.form with
  | .command => decodeCommand w.code w.ops
  | .operation => decodeOperation w.code w.ops

/-- The form a bare 16-bit word of the opcode table has: a `CMD16` magic makes it a command code, anything else a
selector ("No group value equals a `CMD16` magic", R94). -/
def formOfCode (code : Half) : CallForm :=
  if codeGroup code = 0x4C ∨ codeGroup code = 0x52 ∨ codeGroup code = 0x53 then .command else .operation

/-- The call a bare word of the opcode table stands for: its form, the word, and operands of zeros. -/
def tableCall (w : Nat) : CallWord := ⟨formOfCode (BitVec.ofNat 16 w), BitVec.ofNat 16 w, {}⟩

/-- What the decoder reads from an opcode-table word; every row of the table has 16 bits. -/
def decodeTableWord (nbits w : Nat) : Option Instr :=
  if nbits = 16 ∧ w < 65536 then
    match decode (tableCall w) with
    | .ok i => some i
    | .error _ => none
  else none

/-- The call's session operands as an operand record. -/
def Ctx.operands (c : Ctx) : Operands := { inst := c.inst, caller := c.caller, token := c.token }

/-- The call's device and caller as an operand record. -/
def Site.operands (w : Site) : Operands := { inst := w.inst, caller := w.caller }

/-- The code of each operation: R83 and R94. -/
def Instr.code (i : Instr) : Half :=
  match i with
  | .ledGetInit _ _ => 0x4C00
  | .ledSetInit _ _ _ => 0x4C01
  | .ledGetMask _ _ => 0x4C02
  | .ledSetMask _ _ _ => 0x4C03
  | .ledReset _ _ => 0x4C04
  | .rgbGetValue _ _ => 0x5200
  | .rgbSetValue _ _ _ => 0x5201
  | .rgbGetPeriod _ _ => 0x5202
  | .rgbSetPeriod _ _ _ => 0x5203
  | .swGetMask _ _ => 0x5300
  | .swSetMask _ _ _ => 0x5301
  | .swGetValue _ _ => 0x5302
  | .rfRead _ _ _ => 0x4600
  | .rfWrite _ _ _ _ => 0x4601
  | .rfWriteMasked8 _ _ _ _ => 0x4602
  | .rfBarrier _ => 0x4603
  | .codecDecode _ _ => 0x4300
  | .codecEncode _ _ => 0x4301
  | .codecScaleDuty _ _ _ _ => 0x4302
  | .guardAcquire _ => 0x4700
  | .guardRelease _ => 0x4701
  | .ledOpen _ _ => 0x6C00
  | .ledClose _ => 0x6C01
  | .ledStreamRead _ _ _ => 0x6C02
  | .ledStreamWrite _ _ _ => 0x6C03
  | .ledSeek _ _ _ => 0x6C04
  | .rgbOpen _ _ => 0x7200
  | .rgbClose _ => 0x7201
  | .rgbStreamRead _ _ _ => 0x7202
  | .rgbStreamWrite _ _ _ => 0x7203
  | .rgbSeek _ _ _ => 0x7204
  | .swOpen _ _ => 0x7300
  | .swClose _ => 0x7301
  | .swStreamRead _ _ _ => 0x7302
  | .swStreamWrite _ _ _ => 0x7303
  | .swSeek _ _ _ => 0x7304
  | .hostAttach _ _ _ => 0x4100
  | .hostDetach _ => 0x4101
  | .hostShutdown _ => 0x4102
  | .hostInterrupt _ => 0x4103

/-- The operands of each operation; a field the operation does not read is the zero operand. -/
def Instr.operands (i : Instr) : Operands :=
  match i with
  | .ledGetInit c priv => { c.operands with priv }
  | .ledSetInit c priv v => { c.operands with priv, arg8 := v }
  | .ledGetMask c priv => { c.operands with priv }
  | .ledSetMask c priv m => { c.operands with priv, arg8 := m }
  | .ledReset c priv => { c.operands with priv }
  | .rgbGetValue c priv => { c.operands with priv }
  | .rgbSetValue c priv packed => { c.operands with priv, arg32 := packed }
  | .rgbGetPeriod c priv => { c.operands with priv }
  | .rgbSetPeriod c priv p => { c.operands with priv, arg32 := p }
  | .swGetMask c priv => { c.operands with priv }
  | .swSetMask c priv m => { c.operands with priv, arg8 := m }
  | .swGetValue c priv => { c.operands with priv }
  | .rfRead w offset width => { w.operands with offset, width }
  | .rfWrite w offset width value => { w.operands with offset, width, arg32 := value }
  | .rfWriteMasked8 w offset value mask => { w.operands with offset, arg8 := value, mask8 := mask }
  | .rfBarrier w => w.operands
  | .codecDecode caller packed => { caller, arg32 := packed }
  | .codecEncode caller color => { caller, color }
  | .codecScaleDuty caller period ch divisor => { caller, arg32 := period, arg8 := ch, divisor }
  | .guardAcquire w => w.operands
  | .guardRelease c => c.operands
  | .ledOpen w mode => { w.operands with mode }
  | .ledClose c => c.operands
  | .ledStreamRead c offset cap => { c.operands with offset, cap }
  | .ledStreamWrite c offset data => { c.operands with offset, data }
  | .ledSeek c seek whence => { c.operands with seek, whence }
  | .rgbOpen w mode => { w.operands with mode }
  | .rgbClose c => c.operands
  | .rgbStreamRead c offset cap => { c.operands with offset, cap }
  | .rgbStreamWrite c offset data => { c.operands with offset, data }
  | .rgbSeek c seek whence => { c.operands with seek, whence }
  | .swOpen w mode => { w.operands with mode }
  | .swClose c => c.operands
  | .swStreamRead c offset cap => { c.operands with offset, cap }
  | .swStreamWrite c offset data => { c.operands with offset, data }
  | .swSeek c seek whence => { c.operands with seek, whence }
  | .hostAttach kind base size => { kind, base, size }
  | .hostDetach inst => { inst }
  | .hostShutdown inst => { inst }
  | .hostInterrupt caller => { caller }

/-- The encoder: the call that stands for an operation. -/
def encode (i : Instr) : CallWord := ⟨formOfCode i.code, i.code, i.operands⟩

end Sys2Proof
end

