-- ==== Sys2Proof/Machine/Fetch.lean ====
section
/-! DEFINITION. How the next operation reaches the block: the first call that has been made and not yet executed
(spec/10_state.md R21: "It executes one operation per call ... The order of operations is the order in which callers
make them"), and what a call that is no operation of the table does. -/

namespace Sys2Proof.Machine

open Sys2Proof

/-- What the machine finds to do. -/
inductive Fetched where
  /-- no call has been made -/
  | idle
  /-- a call, and the state in which it is executed: the call taken, the environment's draws for it in place -/
  | call (w : CallWord) (s : State)
  deriving DecidableEq, Repr

/-- Takes the first call. -/
def fetch (s : State) : Fetched :=
  match s.pending with
  | [] => .idle
  | r :: rest => .call r.call { s with pending := rest, env := r.env }

/-- A command call whose code is outside R83: steps 1 to 3 of R150, which end in `InvalidCommand` (R84). -/
def unknownCommand (c : Ctx) (s : State) : Out :=
  finish (match heldLive c s with
    | .error e => .error e
    | .ok _ => raises c.caller .invalidCommand s)

/-- What a call that the decoder rejects does. -/
def onReject (r : Reject) (o : Operands) (s : State) : Out :=
  match r with
  | .unknownCommand => unknownCommand o.ctx s
  | .unknownSelector => .refused .unknownSelector
  | .valueTooWide => .refused .valueTooWide

/-- A state in which a bare word of the opcode table, with operands of zeros, is the next call. -/
def placeWord (w : Nat) (s : State) : State := { s with pending := ⟨tableCall w, s.env⟩ :: s.pending }

end Sys2Proof.Machine
end

