-- ==== Sys2Proof/Machine/Step.lean ====
section
/-! DEFINITION. One step: the next call is fetched, decoded and executed. With no call made, nothing happens (R21). -/

namespace Sys2Proof.Machine

open Sys2Proof

/-- One step of the machine. -/
def step (s : State) : Host.Outcome State Fault Refusal :=
  match fetch s with
  | .idle => .next s
  | .call w s' =>
    match decode w with
    | .ok i => exec i s'
    | .error r => onReject r w.ops s'

/-- The state with an opcode-table word as its next call; every row of the table has 16 bits. -/
def State.withFetchWord (s : State) (_nbits w : Nat) : State := placeWord w s

end Sys2Proof.Machine
end

