-- ==== Sys2Proof/Machine/Outputs.lean ====
section
/-! DEFINITION. What the outputs show of the registers (spec/10_state.md R34, R38): in a state, and at every write that an
operation makes (spec/20_memory.md R57, spec/70_reset_and_hazards.md R265). No operation reads the outputs. -/

namespace Sys2Proof.Machine

open Sys2Proof

/-- The three PWM outputs (R34). -/
inductive Channel where
  | r
  | g
  | b
  deriving DecidableEq, Repr

/-- The offset of a channel's duty register (R23). -/
def dutyOffset (cfg : Config) (ch : Channel) : Nat :=
  match ch with
  | .r => cfg.offDutyR
  | .g => cfg.offDutyG
  | .b => cfg.offDutyB

/-! ## The outputs of a block for a register content -/

/-- A PWM output for the content of its duty register and of the period register (R38): `some (duty, period)` says the
output is driven high for `duty` clock cycles out of every `period`. `none` says nothing of the output: an unwritten
register, period 0 or a duty above the period (U6: "the observed fraction is unconstrained"). -/
def pwmFraction (duty period : Option Word) : Option (Nat × Nat) :=
  match duty, period with
  | some duty, some period =>
    if 0 < period.toNat ∧ duty.toNat ≤ period.toNat then some (duty.toNat, period.toNat) else none
  | _, _ => none

/-- The PWM output of a channel (R38) of the block at `base` while the registers hold `hw`. -/
def pwmAt (cfg : Config) (base : Nat) (ch : Channel) (hw : Memory) : Option (Nat × Nat) :=
  pwmFraction (Memory.word? hw (base + dutyOffset cfg ch)) (Memory.word? hw (base + cfg.offPeriod))

/-- The LED outputs of the block at `base` follow `PATTERN[7:0]` (R34); `none` while the register is unwritten. -/
def ledAt (cfg : Config) (base : Nat) (hw : Memory) : Option Byte := Memory.byte? hw (base + cfg.offLedData)

/-- The PWM output of a channel in a state (R38). -/
def pwmOutput (s : State) (id : Nat) (ch : Channel) : Option (Nat × Nat) :=
  match s.devices[id]? with
  | none => none
  | some d => if d.kind = .rgb then pwmAt s.cfg d.base ch s.hw else none

/-- The LED outputs in a state (R34). -/
def ledOutput (s : State) (id : Nat) : Option Byte :=
  match s.devices[id]? with
  | none => none
  | some d => if d.kind = .led then ledAt s.cfg d.base s.hw else none

/-! ## The outputs during an operation (R57, R265, U22) -/

/-- The register contents that the events of the block at `base` pass through, from `hw` on: one more for each write. -/
def contentsAfter (base : Nat) (hw : Memory) (es : List BusEvent) : List Memory :=
  match es with
  | [] => [hw]
  | .write offset v :: rest => hw :: contentsAfter base (Memory.write hw (base + offset) v) rest
  | .read _ _ :: rest => contentsAfter base hw rest
  | .barrier :: rest => contentsAfter base hw rest

/-- The register contents that the outputs of device `id` see from state `s` to state `t`, in order: those of `s` and,
after each register write made between them, the mixture of old and new registers that the write leaves ("real", U22). -/
def contentsDuring (s t : State) (id : Nat) : List Memory :=
  match s.devices[id]?, t.devices[id]? with
  | some d, some e => contentsAfter d.base s.hw (e.events.drop d.events.length)
  | _, _ => []

/-- What a PWM output shows from state `s` to state `t`: "the PWM outputs see that mixture" (R57). -/
def pwmOutputsDuring (s t : State) (id : Nat) (ch : Channel) : List (Option (Nat × Nat)) :=
  match s.devices[id]? with
  | none => []
  | some d => if d.kind = .rgb then (contentsDuring s t id).map (pwmAt s.cfg d.base ch) else []

/-- What the LED outputs show from state `s` to state `t`. -/
def ledOutputsDuring (s t : State) (id : Nat) : List (Option Byte) :=
  match s.devices[id]? with
  | none => []
  | some d => if d.kind = .led then (contentsDuring s t id).map (ledAt s.cfg d.base) else []

end Sys2Proof.Machine
end

