-- ==== Sys2Proof/Safety.lean ====
section
/-! DEFINITION. The terms in which claims speak: who holds a device, what a next state is in full, what a colour change
writes, and the invariants that rule out states no run reaches. -/

namespace Sys2Proof.Machine

open Sys2Proof

/-! ## Hypotheses on a state -/

/-- The caller of `c` presents the token that holds the Attached device `d`, whose content is `l` (R64, R150). -/
abbrev Holds (s : State) (c : Ctx) (d : Device) (l : Live) : Prop :=
  s.devices[c.inst]? = some d ∧ d.life = .attached l ∧ l.holder = some c.token

/-- And it does so inside the Session `ses` (R31, R207). -/
abbrev InSession (s : State) (c : Ctx) (d : Device) (l : Live) (ses : Session) : Prop :=
  Holds s c d l ∧ l.session = some ses ∧ ses.token = c.token

/-! ## Next states in full -/

/-- The device with another live content. -/
def Device.withLive (d : Device) (l : Live) : Device := { d with life := .attached l }

/-- The device with more events. -/
def Device.withEvents (d : Device) (es : List BusEvent) : Device := { d with events := d.events ++ es }

/-- One result more and nothing else changed. -/
def State.answer (s : State) (a : Agent) (r : Ret) : State := { s with replies := s.replies ++ [⟨a, r⟩] }

/-- One device replaced, the registers `hw`, one result more, and nothing else changed. -/
def State.after (s : State) (id : Nat) (d : Device) (hw : Memory) (a : Agent) (r : Ret) : State :=
  { s with devices := s.devices.set id d, hw := hw, replies := s.replies ++ [⟨a, r⟩] }

/-- A write followed by its barrier (R58). -/
def writeEvents (offset : Nat) (v : RegVal) : List BusEvent := [.write offset v, .barrier]

/-- `hw'` is `hw` after one register write: that address holds the value, every other is as before. -/
abbrev WroteOnly (hw hw' : Memory) (a : Nat) (v : RegVal) : Prop :=
  hw'.read a = some v ∧ ∀ b, b ≠ a → hw'.read b = hw.read b

/-! ## What a colour change writes -/

/-- The duty of a channel as the exact number of R133: `floor(floor(period / maxDivisor) / 256) * channel`. -/
def exactDuty (period : Word) (ch : Byte) (maxDivisor : Word) : Nat :=
  period.toNat / maxDivisor.toNat / 256 * ch.toNat

/-- That number as the 32-bit value written. -/
def dutyWord (period : Word) (ch : Byte) (maxDivisor : Word) : RegVal :=
  .word (BitVec.ofNat 32 (exactDuty period ch maxDivisor))

/-- The writes of `RGB.ApplyColor` in the order of R157, each with its offset and value. -/
def colorWrites (cfg : Config) (period : Word) (c : ColorValue) : List (Nat × RegVal) :=
  [(cfg.offDutyR, dutyWord period c.r cfg.maxDivisor), (cfg.offDutyG, dutyWord period c.g cfg.maxDivisor),
    (cfg.offDutyB, dutyWord period c.b cfg.maxDivisor), (cfg.offPeriod, .word period)]

/-- The events of `RGB.ApplyColor`: each write with its barrier (R58). -/
def colorEvents (cfg : Config) (period : Word) (c : ColorValue) : List BusEvent :=
  (colorWrites cfg period c).flatMap fun w => writeEvents w.1 w.2

/-- `contents` are the register contents that the writes `ws` of the block at `base` pass through, from `hw` to `hw'`:
each differs from the one before in the one register just written, so that between the first and the last it is a mixture
of old and new registers (R57, R265). -/
def PassesThrough (base : Nat) (ws : List (Nat × RegVal)) (contents : List Memory) (hw hw' : Memory) : Prop :=
  match ws, contents with
  | [], [m] => m = hw ∧ m = hw'
  | w :: ws, m :: rest => m = hw ∧ ∃ m', WroteOnly hw m' (base + w.1) w.2 ∧ PassesThrough base ws rest m' hw'
  | _, _ => False

/-- `hw'` is `hw` after `RGB.ApplyColor` (R155): the four registers hold the three duties and the period, every other
address is as before. -/
def ColorWritten (cfg : Config) (base : Nat) (period : Word) (c : ColorValue) (hw hw' : Memory) : Prop :=
  hw'.read (base + cfg.offDutyR) = some (dutyWord period c.r cfg.maxDivisor) ∧
  hw'.read (base + cfg.offDutyG) = some (dutyWord period c.g cfg.maxDivisor) ∧
  hw'.read (base + cfg.offDutyB) = some (dutyWord period c.b cfg.maxDivisor) ∧
  hw'.read (base + cfg.offPeriod) = some (.word period) ∧
  ∀ a, a ∉ [base + cfg.offDutyR, base + cfg.offDutyG, base + cfg.offDutyB, base + cfg.offPeriod] →
    hw'.read a = hw.read a

/-- What the three PWM outputs show while `RGB.ApplyColor` makes its four writes (R57, R265): before the first, and after
each, every output is that of its duty register and the period register as they then are. -/
def MixedOutputs (cfg : Config) (base : Nat) (period : Word) (c : ColorValue) (hw : Memory)
    (outs : Channel → List (Option (Nat × Nat))) : Prop :=
  ∀ r g b p, r = hw.word? (base + cfg.offDutyR) → g = hw.word? (base + cfg.offDutyG) →
    b = hw.word? (base + cfg.offDutyB) → p = hw.word? (base + cfg.offPeriod) →
  ∀ r' g' b' p', r' = some (BitVec.ofNat 32 (exactDuty period c.r cfg.maxDivisor)) →
    g' = some (BitVec.ofNat 32 (exactDuty period c.g cfg.maxDivisor)) →
    b' = some (BitVec.ofNat 32 (exactDuty period c.b cfg.maxDivisor)) → p' = some period →
  outs .r = [pwmFraction r p, pwmFraction r' p, pwmFraction r' p, pwmFraction r' p, pwmFraction r' p'] ∧
  outs .g = [pwmFraction g p, pwmFraction g p, pwmFraction g' p, pwmFraction g' p, pwmFraction g' p'] ∧
  outs .b = [pwmFraction b p, pwmFraction b p, pwmFraction b p, pwmFraction b' p, pwmFraction b' p']

/-- The events of `RGB.ResetDuty` (R156). -/
def dutyResetEvents (cfg : Config) : List BusEvent :=
  writeEvents cfg.offDutyR (.word 0) ++ writeEvents cfg.offDutyG (.word 0) ++ writeEvents cfg.offDutyB (.word 0)

/-- `hw'` is `hw` after `RGB.ResetDuty` (R156): the three duties are 0, every other address, `PERIOD` among them, is as
before. -/
def DutiesZeroed (cfg : Config) (base : Nat) (hw hw' : Memory) : Prop :=
  hw'.read (base + cfg.offDutyR) = some (.word 0) ∧
  hw'.read (base + cfg.offDutyG) = some (.word 0) ∧
  hw'.read (base + cfg.offDutyB) = some (.word 0) ∧
  ∀ a, a ∉ [base + cfg.offDutyR, base + cfg.offDutyG, base + cfg.offDutyB] → hw'.read a = hw.read a

/-! ## The text an RGB stream write accepts (spec/30_encoding.md R88, R89) -/

/-- `H` is a hexadecimal digit of value `v`: "one of `0` to `9`, `a` to `f`, `A` to `F`" (R88). -/
def IsHexDigit (h : Byte) (v : Nat) : Prop :=
  0x30 ≤ h.toNat ∧ h.toNat ≤ 0x39 ∧ v = h.toNat - 0x30 ∨
  0x61 ≤ h.toNat ∧ h.toNat ≤ 0x66 ∧ v = h.toNat - 0x61 + 10 ∨
  0x41 ≤ h.toNat ∧ h.toNat ≤ 0x46 ∧ v = h.toNat - 0x41 + 10

/-- Two digits of value `16 * val(H1) + val(H2)` (R88). -/
def IsHexPair (h1 h2 v : Byte) : Prop := ∃ a b, IsHexDigit h1 a ∧ IsHexDigit h2 b ∧ v.toNat = 16 * a + b

/-- `s` is the 14-byte layout of R88 with the channels of `c`. -/
def IsWriteText (s : List Byte) (c : ColorValue) : Prop :=
  ∃ r1 r2 g1 g2 b1 b2, s = [0x30, 0x78, r1, r2, 0x20, 0x30, 0x78, g1, g2, 0x20, 0x30, 0x78, b1, b2] ∧
    IsHexPair r1 r2 c.r ∧ IsHexPair g1 g2 c.g ∧ IsHexPair b1 b2 c.b

/-- The six bytes that are trimmed (R89). -/
def whitespace : List Byte := [0x20, 0x09, 0x0A, 0x0B, 0x0C, 0x0D]

/-- `t` is the trimmed content of the write buffer `buf` (R89): the bytes before the first NUL, or all of them where
there is none, with every leading and every trailing byte of whitespace removed. -/
def IsTrimmedContent (buf t : List Byte) : Prop :=
  ∃ before rest pre post, buf = before ++ rest ∧ (∀ b ∈ before, b ≠ 0) ∧ (rest = [] ∨ rest.head? = some 0) ∧
    before = pre ++ t ++ post ∧ (∀ b ∈ pre, b ∈ whitespace) ∧ (∀ b ∈ post, b ∈ whitespace) ∧
    (∀ b ∈ t.head?, b ∉ whitespace) ∧ (∀ b ∈ t.getLast?, b ∉ whitespace)

/-! ## Classes of operations -/

/-- The twelve commands (R83), each with its session operands, its kind and its Privilege token. -/
def commandOf (i : Instr) : Option (Ctx × Kind × Bool) :=
  match i with
  | .ledGetInit c p | .ledGetMask c p | .ledReset c p => some (c, .led, p)
  | .ledSetInit c p _ | .ledSetMask c p _ => some (c, .led, p)
  | .rgbGetValue c p | .rgbGetPeriod c p => some (c, .rgb, p)
  | .rgbSetValue c p _ | .rgbSetPeriod c p _ => some (c, .rgb, p)
  | .swGetMask c p | .swGetValue c p => some (c, .sw, p)
  | .swSetMask c p _ => some (c, .sw, p)
  | _ => none

/-- The five commands that require privilege (R229). -/
def gated (i : Instr) : Bool :=
  match i with
  | .ledSetInit _ _ _ | .ledSetMask _ _ _ | .rgbSetValue _ _ _ | .rgbSetPeriod _ _ _ | .swSetMask _ _ _ => true
  | _ => false

/-- The stream operations that run inside a session (R207), each with its session operands and its kind. -/
def streamOf (i : Instr) : Option (Ctx × Kind) :=
  match i with
  | .ledClose c | .ledStreamRead c _ _ | .ledStreamWrite c _ _ | .ledSeek c _ _ => some (c, .led)
  | .rgbClose c | .rgbStreamRead c _ _ | .rgbStreamWrite c _ _ | .rgbSeek c _ _ => some (c, .rgb)
  | .swClose c | .swStreamRead c _ _ | .swStreamWrite c _ _ | .swSeek c _ _ => some (c, .sw)
  | _ => none

/-- The session operands of an operation that presents a token. -/
def tokenOf (i : Instr) : Option Ctx :=
  match commandOf i, streamOf i, i with
  | some (c, _), _, _ => some c
  | _, some (c, _), _ => some c
  | _, _, .guardRelease c => some c
  | _, _, _ => none

/-- A seek on a device with a seek-triggered reset (R199). -/
def isResettingSeek (i : Instr) : Bool :=
  match i with
  | .ledSeek _ _ _ | .rgbSeek _ _ _ => true
  | _ => false

/-- The operations that may access the registers of device `id` without presenting its token: the host's (R65), and a
direct call of the Register File. -/
def tokenlessAccess (i : Instr) (id : Nat) : Prop :=
  match i with
  | .hostDetach j | .hostShutdown j => j = id
  | .rfWrite w _ _ _ | .rfWriteMasked8 w _ _ _ => w.inst = id
  | _ => False

/-- `open` of a kind (R190). -/
def openOf (k : Kind) (w : Site) (m : Mode) : Instr :=
  match k with
  | .led => .ledOpen w m
  | .rgb => .rgbOpen w m
  | .sw => .swOpen w m

/-- `close` of a kind (R191). -/
def closeOf (k : Kind) (c : Ctx) : Instr :=
  match k with
  | .led => .ledClose c
  | .rgb => .rgbClose c
  | .sw => .swClose c

/-- The configuration fields that only a privileged command changes: `initValue`, `mask`, `period` (R229). -/
def SameConfig (a b : DeviceConfig) : Prop :=
  match a, b with
  | .led x, .led y => x = y
  | .rgb x, .rgb y => x.period = y.period
  | .sw x, .sw y => x = y
  | _, _ => False

/-! ## Invariants -/

/-- The register list is in its canonical form. -/
abbrev HwCanonical (s : State) : Prop := Memory.wf s.hw

/-- The period of every RGB device is above 0, and so is the default (R28, R6). -/
abbrev PeriodsPositive (s : State) : Prop :=
  s.cfg.periodDefault ≠ 0 ∧ ∀ d ∈ s.devices, ∀ l ∈ d.live?, ∀ rgb ∈ l.st.rgb?, rgb.period ≠ 0

/-- Whether two devices, where both are live, have different holders (R32). -/
abbrev HoldersDiffer (d e : Device) : Prop :=
  ∀ l ∈ d.live?, ∀ m ∈ e.live?, ∀ t ∈ l.holder, m.holder ≠ some t

/-- Every outstanding token was granted before, and no two devices have the same one (R32). -/
abbrev TokensDistinct (s : State) : Prop :=
  (∀ d ∈ s.devices, ∀ l ∈ d.live?, ∀ t ∈ l.holder, t < s.nextToken) ∧ s.devices.Pairwise HoldersDiffer

/-- Whether the register blocks of two devices, where both are live, do not overlap (R40). -/
abbrev BlocksApart (d e : Device) : Prop :=
  d.live?.isSome = true → e.live?.isSome = true → d.base + d.extent ≤ e.base ∨ e.base + e.extent ≤ d.base

/-- Every live device's extent covers its declared registers, and no two live devices share a block (R6, R40). -/
abbrev BlocksDisjoint (s : State) : Prop :=
  (∀ d ∈ s.devices, ∀ l ∈ d.live?, covers s.cfg l.st.kind d.extent = true) ∧ s.devices.Pairwise BlocksApart

/-- A live Session holds its device's guard, its mode is one the kind allows, its write buffer has the fixed size and
its read buffer fits (R31, R190). -/
abbrev SessionFits (cfg : Config) (l : Live) : Prop :=
  ∀ ses ∈ l.session, l.holder = some ses.token ∧ modeAllowed cfg l.st.kind ses.mode = true ∧
    ses.wrBuf.length = cfg.wrBufSize ∧ ses.rdBuf.length ≤ cfg.rdBufSize

/-- Every live Session fits, and so would the one of every blocked `open` (R31, R190). -/
abbrev SessionsFit (s : State) : Prop :=
  15 ≤ s.cfg.rdBufSize ∧ ∀ d ∈ s.devices, ∀ l ∈ d.live?, SessionFits s.cfg l ∧
    ∀ w ∈ d.blocked, ∀ m ∈ w.mode, modeAllowed s.cfg l.st.kind m = true

/-- A caller is blocked in at most one `acquire`, and on a live device only while the guard is held (R61). -/
abbrev WaitersBlocked (s : State) : Prop :=
  ((s.devices.flatMap Device.blocked).map Waiter.caller).Nodup ∧
  ∀ d ∈ s.devices, ∀ l ∈ d.live?, l.holder = none → d.blocked = []

/-- Every write of an event history is followed at once by a barrier (R58). -/
def barriered (es : List BusEvent) : Bool :=
  match es with
  | [] => true
  | .write _ _ :: .barrier :: rest => barriered rest
  | .write _ _ :: _ => false
  | .read _ _ :: rest => barriered rest
  | .barrier :: rest => barriered rest

/-- Every device's history is so (R58). -/
abbrev WritesBarriered (s : State) : Prop := ∀ d ∈ s.devices, barriered d.events = true

/-- The value of the last write to an offset in an event history. -/
def lastWrite (es : List BusEvent) (offset : Nat) : Option RegVal :=
  match es with
  | [] => none
  | .write o v :: rest => (lastWrite rest offset).or (if o = offset then some v else none)
  | .read _ _ :: rest => lastWrite rest offset
  | .barrier :: rest => lastWrite rest offset

/-- The content of every register a live device has written is the value of its last write to it (R26). -/
abbrev ContentIsLastWrite (s : State) : Prop :=
  ∀ d ∈ s.devices, ∀ l ∈ d.live?, ∀ r ∈ declaredRegs s.cfg l.st.kind, ∀ v ∈ lastWrite d.events r.1,
    s.hw.read (d.base + r.1) = some v

end Sys2Proof.Machine
end

