-- ==== Sys2Proof/Certificates/Slice0/Obligations.lean ====
section
/-! DEFINITION. The statements for the provers. Each docstring names the rules it formalises; a next state is given in
full (`State.answer`, `State.after`), so that each statement is also its frame. A result stands in the model's list of
results (notes/assumptions/6.md), an access in the event history of its device (R55). -/

open Sys2Proof Sys2Proof.Machine

/-! ## Reset, fetch, encodings -/

/-- R36 (column power-on), R264: at power-on, with any parameters, no device exists, every register is unwritten, no
output has a value, and no call or result exists. The model's own fields (token counter, draws) are DESIGN CHOICES of
notes/assumptions/3.md and 4.md and are not stated. -/
def Obligations.ResetIsPowerOn : Prop :=
  ∀ cfg : Config, (State.resetWith cfg).cfg = cfg ∧ (State.resetWith cfg).devices = [] ∧
    (∀ a, (State.resetWith cfg).hw.read a = none) ∧
    (∀ id ch, pwmOutput (State.resetWith cfg) id ch = none) ∧ (∀ id, ledOutput (State.resetWith cfg) id = none) ∧
    (State.resetWith cfg).pending = [] ∧ (State.resetWith cfg).replies = []

/-- R21: one operation per call, in the order of the calls. An operation call whose selector R94 does not have is refused
(spec/93_implementation_defined.md section 2). The queue of calls, and the refusal of an 8-bit `RF.Write` of a value above
255, are the model's (notes/assumptions/5.md, 11.md). -/
def Obligations.StepRunsDecodedCall : Prop :=
  (∀ s r rest i, s.pending = r :: rest → decode r.call = .ok i →
    step s = exec i { s with pending := rest, env := r.env }) ∧
  (∀ s, s.pending = [] → step s = .next s) ∧
  (∀ s r rest, s.pending = r :: rest → r.call.form = .operation →
    r.call.code.toNat ∉ [0x4600, 0x4601, 0x4602, 0x4603, 0x4300, 0x4301, 0x4302, 0x4700, 0x4701,
      0x6C00, 0x6C01, 0x6C02, 0x6C03, 0x6C04, 0x7200, 0x7201, 0x7202, 0x7203, 0x7204,
      0x7300, 0x7301, 0x7302, 0x7303, 0x7304, 0x4100, 0x4101, 0x4102, 0x4103] →
    step s = .refused .unknownSelector) ∧
  (∀ s r rest, s.pending = r :: rest → r.call.form = .operation → r.call.code = 0x4601 → r.call.ops.width = .w8 →
    255 < r.call.ops.arg32.toNat → step s = .refused .valueTooWide)

/-- R82, R83, R94: every well-formed operation is read back from its code and operands. -/
def Obligations.DecodeOfEncode : Prop := ∀ i : Instr, i.wf = true → decode (encode i) = .ok i

/-- R83, R84, R94: what the decoder accepts is well formed and has the code and the form it was given, so that no two
codes stand for one operation and no code outside the tables is accepted. -/
def Obligations.DecodedHasTableCode : Prop :=
  ∀ (w : CallWord) (i : Instr), decode w = .ok i → i.wf = true ∧ i.code = w.code ∧ formOfCode i.code = w.form

/-- R83, R94: the forty codes of the tables, each with the operands of its row; an 8-bit `RF.Write` of a value above 255
is refused (R111). And two codes that no table of their form has (R84, R94). -/
def Obligations.TableCodesDecode : Prop :=
  ∀ o : Operands,
    decode ⟨.command, 0x4C00, o⟩ = .ok (.ledGetInit o.ctx o.priv) ∧
    decode ⟨.command, 0x4C01, o⟩ = .ok (.ledSetInit o.ctx o.priv o.arg8) ∧
    decode ⟨.command, 0x4C02, o⟩ = .ok (.ledGetMask o.ctx o.priv) ∧
    decode ⟨.command, 0x4C03, o⟩ = .ok (.ledSetMask o.ctx o.priv o.arg8) ∧
    decode ⟨.command, 0x4C04, o⟩ = .ok (.ledReset o.ctx o.priv) ∧
    decode ⟨.command, 0x5200, o⟩ = .ok (.rgbGetValue o.ctx o.priv) ∧
    decode ⟨.command, 0x5201, o⟩ = .ok (.rgbSetValue o.ctx o.priv o.arg32) ∧
    decode ⟨.command, 0x5202, o⟩ = .ok (.rgbGetPeriod o.ctx o.priv) ∧
    decode ⟨.command, 0x5203, o⟩ = .ok (.rgbSetPeriod o.ctx o.priv o.arg32) ∧
    decode ⟨.command, 0x5300, o⟩ = .ok (.swGetMask o.ctx o.priv) ∧
    decode ⟨.command, 0x5301, o⟩ = .ok (.swSetMask o.ctx o.priv o.arg8) ∧
    decode ⟨.command, 0x5302, o⟩ = .ok (.swGetValue o.ctx o.priv) ∧
    decode ⟨.operation, 0x4600, o⟩ = .ok (.rfRead o.site o.offset o.width) ∧
    decode ⟨.operation, 0x4601, o⟩ =
      (if o.width.fits o.arg32 then .ok (.rfWrite o.site o.offset o.width o.arg32) else .error .valueTooWide) ∧
    decode ⟨.operation, 0x4602, o⟩ = .ok (.rfWriteMasked8 o.site o.offset o.arg8 o.mask8) ∧
    decode ⟨.operation, 0x4603, o⟩ = .ok (.rfBarrier o.site) ∧
    decode ⟨.operation, 0x4300, o⟩ = .ok (.codecDecode o.caller o.arg32) ∧
    decode ⟨.operation, 0x4301, o⟩ = .ok (.codecEncode o.caller o.color) ∧
    decode ⟨.operation, 0x4302, o⟩ = .ok (.codecScaleDuty o.caller o.arg32 o.arg8 o.divisor) ∧
    decode ⟨.operation, 0x4700, o⟩ = .ok (.guardAcquire o.site) ∧
    decode ⟨.operation, 0x4701, o⟩ = .ok (.guardRelease o.ctx) ∧
    decode ⟨.operation, 0x6C00, o⟩ = .ok (.ledOpen o.site o.mode) ∧
    decode ⟨.operation, 0x6C01, o⟩ = .ok (.ledClose o.ctx) ∧
    decode ⟨.operation, 0x6C02, o⟩ = .ok (.ledStreamRead o.ctx o.offset o.cap) ∧
    decode ⟨.operation, 0x6C03, o⟩ = .ok (.ledStreamWrite o.ctx o.offset o.data) ∧
    decode ⟨.operation, 0x6C04, o⟩ = .ok (.ledSeek o.ctx o.seek o.whence) ∧
    decode ⟨.operation, 0x7200, o⟩ = .ok (.rgbOpen o.site o.mode) ∧
    decode ⟨.operation, 0x7201, o⟩ = .ok (.rgbClose o.ctx) ∧
    decode ⟨.operation, 0x7202, o⟩ = .ok (.rgbStreamRead o.ctx o.offset o.cap) ∧
    decode ⟨.operation, 0x7203, o⟩ = .ok (.rgbStreamWrite o.ctx o.offset o.data) ∧
    decode ⟨.operation, 0x7204, o⟩ = .ok (.rgbSeek o.ctx o.seek o.whence) ∧
    decode ⟨.operation, 0x7300, o⟩ = .ok (.swOpen o.site o.mode) ∧
    decode ⟨.operation, 0x7301, o⟩ = .ok (.swClose o.ctx) ∧
    decode ⟨.operation, 0x7302, o⟩ = .ok (.swStreamRead o.ctx o.offset o.cap) ∧
    decode ⟨.operation, 0x7303, o⟩ = .ok (.swStreamWrite o.ctx o.offset o.data) ∧
    decode ⟨.operation, 0x7304, o⟩ = .ok (.swSeek o.ctx o.seek o.whence) ∧
    decode ⟨.operation, 0x4100, o⟩ = .ok (.hostAttach o.kind o.base o.size) ∧
    decode ⟨.operation, 0x4101, o⟩ = .ok (.hostDetach o.inst) ∧
    decode ⟨.operation, 0x4102, o⟩ = .ok (.hostShutdown o.inst) ∧
    decode ⟨.operation, 0x4103, o⟩ = .ok (.hostInterrupt o.caller) ∧
    decode ⟨.command, 0x5204, o⟩ = .error .unknownCommand ∧
    decode ⟨.command, 0x4600, o⟩ = .error .unknownCommand

/-! ## Codec (spec/41_color_codec.md) -/

/-- R130: the three channels are bits 23:16, 15:8 and 7:0; the operation, selector 0x4300, returns them, on every state
and word, and changes nothing else. -/
def Obligations.DecodeColorTakesChannels : Prop :=
  (∀ packed : Word, (decodeColor packed).r.toNat = packed.toNat / 65536 % 256 ∧
    (decodeColor packed).g.toNat = packed.toNat / 256 % 256 ∧ (decodeColor packed).b.toNat = packed.toNat % 256) ∧
  ∀ s caller packed, (Instr.codecDecode caller packed).code = 0x4300 ∧
    exec (.codecDecode caller packed) s = .next (s.answer (.caller caller) (.color (decodeColor packed)))

/-- R131: the packed word of a colour; the operation, selector 0x4301, returns it, on every state and colour, and changes
nothing else. -/
def Obligations.EncodeColorPacksChannels : Prop :=
  (∀ c : ColorValue, (encodeColor c).toNat = c.r.toNat * 65536 + c.g.toNat * 256 + c.b.toNat) ∧
  ∀ s caller c, (Instr.codecEncode caller c).code = 0x4301 ∧
    exec (.codecEncode caller c) s = .next (s.answer (.caller caller) (.u32 (encodeColor c)))

/-- R132: the round trips. -/
def Obligations.ColorRoundTrips : Prop :=
  (∀ c : ColorValue, decodeColor (encodeColor c) = c) ∧
  (∀ x : Word, x.toNat ≤ 0xFFFFFF → encodeColor (decodeColor x) = x) ∧
  (∀ x : Word, encodeColor (decodeColor x) = x &&& 0x00FFFFFF)

/-- R133, R134, R138: with a divisor above 0 the operation, selector 0x4302, returns the exact number, which is at most
4278189825 and so below 2^32, the scale at most 16777215, and changes nothing else; with divisor 0 it is refused. The
parameter is above 0, and the constant divisor is not 0. -/
def Obligations.ScaleDutyIsExact : Prop :=
  (∀ s caller (p : Word) (c : Byte) (d : Word), (Instr.codecScaleDuty caller p c d).code = 0x4302 ∧
    (d ≠ 0 → exactDuty p c d ≤ 4278189825 ∧ exactDuty p c d < 2 ^ 32 ∧ p.toNat / d.toNat / 256 ≤ 16777215 ∧
      ∃ w : Word, w.toNat = exactDuty p c d ∧ scaleDuty p c d = .ok w ∧
        exec (.codecScaleDuty caller p c d) s = .next (s.answer (.caller caller) (.u32 w))) ∧
    exec (.codecScaleDuty caller p c 0) s = .refused .divisionByZero) ∧
  (∀ cfg : Config, cfg.wf → cfg.maxDivisor ≠ 0) ∧ channelSteps ≠ 0

/-- R135, R136, R137: monotonic, strictly so exactly when the scale is at least 1; 0 for every channel when the period is
below `256 * maxDivisor`; the values at channel 0, at channel 1, at channel 255 and at period 0. -/
def Obligations.ScaleDutyLaws : Prop :=
  ∀ (p d : Word) (a b : Byte) (wa wb : Word), d ≠ 0 → scaleDuty p a d = .ok wa → scaleDuty p b d = .ok wb →
    (a.toNat ≤ b.toNat → wa.toNat ≤ wb.toNat) ∧
    (a.toNat < b.toNat → (wa.toNat < wb.toNat ↔ 1 ≤ p.toNat / d.toNat / 256)) ∧
    (p.toNat < 256 * d.toNat → wa.toNat = 0) ∧ (p.toNat / d.toNat < 256 ↔ p.toNat < 256 * d.toNat) ∧
    (a = 0 → wa.toNat = 0) ∧ (p = 0 → wa.toNat = 0) ∧ (a = 1 → wa.toNat = p.toNat / d.toNat / 256) ∧
    (a = 255 → wa.toNat = 255 * (p.toNat / d.toNat / 256) ∧ (1 ≤ p.toNat / d.toNat / 256 → wa.toNat < p.toNat / d.toNat))

/-- R139: with a period and a divisor above 0 the duty is below the period, and bounded by `255 * scale`; the fraction of
the period is at most `255 / (256 * maxDivisor)`, and is that for channel 255 where the period is a multiple of
`256 * maxDivisor`. -/
def Obligations.DutyStaysBelowPeriod : Prop :=
  ∀ (p d : Word) (c : Byte) (w : Word), 0 < p.toNat → 1 ≤ d.toNat → scaleDuty p c d = .ok w →
    w.toNat ≤ 255 * (p.toNat / d.toNat / 256) ∧ 255 * (p.toNat / d.toNat / 256) < p.toNat ∧
    w.toNat * (256 * d.toNat) ≤ 255 * p.toNat ∧
    (c = 255 → 256 * d.toNat ∣ p.toNat → w.toNat * (256 * d.toNat) = 255 * p.toNat)

/-! ## Commands (spec/42_rgb_commands.md, spec/43_led_switch_commands.md) -/

/-- R150 steps 1 to 3, R84, R224: for every command, a dead device is refused, a caller without the token faults, and a
code foreign to the device's kind returns `InvalidCommand` and changes nothing else, whatever the privilege and the
buffer. -/
def Obligations.CommandChecksComeInOrder : Prop :=
  ∀ s i c k p, commandOf i = some (c, k, p) →
    (s.live? c.inst = none → exec i s = .refused .deadInstance) ∧
    (∀ l, s.live? c.inst = some l → l.holder ≠ some c.token → exec i s = .fault (.programmingError .noToken)) ∧
    (∀ d l, Holds s c d l → l.st.kind ≠ k → exec i s = .next (s.answer (.caller c.caller) (.error .invalidCommand)))

/-- R84: a command call with a code the decoder does not know is answered with `InvalidCommand` where the caller holds
the token, and changes nothing else; without the token it faults, on a dead device it is refused. -/
def Obligations.UnknownCommandCodesAreInvalid : Prop :=
  ∀ s r rest, s.pending = r :: rest → r.call.form = .command → (∀ i, decode r.call ≠ .ok i) →
    (∀ d l, Holds s r.call.ops.ctx d l →
      step s = .next ({ s with pending := rest, env := r.env }.answer (.caller r.call.ops.caller) (.error .invalidCommand))) ∧
    (∀ l, s.live? r.call.ops.inst = some l → l.holder ≠ some r.call.ops.token →
      step s = .fault (.programmingError .noToken)) ∧
    (s.live? r.call.ops.inst = none → step s = .refused .deadInstance)

/-- R229, R150 step 4, R224: the five Set commands without privilege return `PermissionDenied` and change nothing else,
whatever the argument and the buffer. -/
def Obligations.GatedCommandsNeedPrivilege : Prop :=
  ∀ s c d l, Holds s c d l →
    (∀ led, l.st = .led led → ∀ v,
      exec (.ledSetInit c false v) s = .next (s.answer (.caller c.caller) (.error .permissionDenied)) ∧
      exec (.ledSetMask c false v) s = .next (s.answer (.caller c.caller) (.error .permissionDenied))) ∧
    (∀ rgb, l.st = .rgb rgb → ∀ v,
      exec (.rgbSetValue c false v) s = .next (s.answer (.caller c.caller) (.error .permissionDenied)) ∧
      exec (.rgbSetPeriod c false v) s = .next (s.answer (.caller c.caller) (.error .permissionDenied))) ∧
    (∀ sw, l.st = .sw sw → ∀ v,
      exec (.swSetMask c false v) s = .next (s.answer (.caller c.caller) (.error .permissionDenied)))

/-- R85, R150 steps 5 and 8, R223: with an inaccessible buffer a command with an argument (privileged) or a result
returns `IOFault` and leaves the state; `SW.GetValue` has then made its register read. `RGB.SetPeriod(0)` is among
them: the argument is never seen (R224). -/
def Obligations.InaccessibleBufferIsIOFault : Prop :=
  ∀ s c d l, Holds s c d l → s.env.bufOk = false → ∀ priv,
    (∀ led, l.st = .led led → ∀ v,
      exec (.ledGetInit c priv) s = .next (s.answer (.caller c.caller) (.error .ioFault)) ∧
      exec (.ledGetMask c priv) s = .next (s.answer (.caller c.caller) (.error .ioFault)) ∧
      exec (.ledSetInit c true v) s = .next (s.answer (.caller c.caller) (.error .ioFault)) ∧
      exec (.ledSetMask c true v) s = .next (s.answer (.caller c.caller) (.error .ioFault))) ∧
    (∀ rgb, l.st = .rgb rgb → ∀ v,
      exec (.rgbGetValue c priv) s = .next (s.answer (.caller c.caller) (.error .ioFault)) ∧
      exec (.rgbGetPeriod c priv) s = .next (s.answer (.caller c.caller) (.error .ioFault)) ∧
      exec (.rgbSetValue c true v) s = .next (s.answer (.caller c.caller) (.error .ioFault)) ∧
      exec (.rgbSetPeriod c true v) s = .next (s.answer (.caller c.caller) (.error .ioFault))) ∧
    (∀ sw, l.st = .sw sw → ∀ v,
      exec (.swGetMask c priv) s = .next (s.answer (.caller c.caller) (.error .ioFault)) ∧
      exec (.swSetMask c true v) s = .next (s.answer (.caller c.caller) (.error .ioFault)) ∧
      exec (.swGetValue c priv) s = .next (s.after c.inst
        (d.withEvents [.read s.cfg.offSwData (.byte s.env.swIn)]) s.hw (.caller c.caller) (.error .ioFault)))

/-- R170, R172, R151, R153, R176, R178, R179: the Get commands that answer from the Peripheral State return the field
and change nothing else, with or without privilege, and make no register access; `SW.GetValue` makes one read, which
returns the present switch levels, and returns them and-ed with the mask. -/
def Obligations.GetCommandsReturnFields : Prop :=
  ∀ s c d l, Holds s c d l → s.env.bufOk = true → ∀ priv,
    (∀ led, l.st = .led led →
      exec (.ledGetInit c priv) s = .next (s.answer (.caller c.caller) (.u8 led.initValue)) ∧
      exec (.ledGetMask c priv) s = .next (s.answer (.caller c.caller) (.u8 led.mask))) ∧
    (∀ rgb, l.st = .rgb rgb →
      exec (.rgbGetValue c priv) s = .next (s.answer (.caller c.caller) (.u32 (encodeColor rgb.color))) ∧
      exec (.rgbGetPeriod c priv) s = .next (s.answer (.caller c.caller) (.u32 rgb.period))) ∧
    (∀ sw, l.st = .sw sw →
      exec (.swGetMask c priv) s = .next (s.answer (.caller c.caller) (.u8 sw.mask)) ∧
      exec (.swGetValue c priv) s = .next (s.after c.inst (d.withEvents [.read s.cfg.offSwData (.byte s.env.swIn)]) s.hw
        (.caller c.caller) (.u8 (s.env.swIn &&& sw.mask))))

/-- R171, R173, R177, R154: the Set commands that change one field of the Peripheral State store their argument there
and change nothing else: no register access. `RGB.SetPeriod` for a period other than 0. -/
def Obligations.SetCommandsStoreFields : Prop :=
  ∀ s c d l, Holds s c d l → s.env.bufOk = true →
    (∀ led, l.st = .led led → ∀ v,
      exec (.ledSetInit c true v) s = .next (s.after c.inst
        (d.withLive { l with st := .led ⟨v, led.mask⟩ }) s.hw (.caller c.caller) .ok) ∧
      exec (.ledSetMask c true v) s = .next (s.after c.inst
        (d.withLive { l with st := .led ⟨led.initValue, v⟩ }) s.hw (.caller c.caller) .ok)) ∧
    (∀ rgb, l.st = .rgb rgb → ∀ p : Word, p ≠ 0 →
      exec (.rgbSetPeriod c true p) s = .next (s.after c.inst
        (d.withLive { l with st := .rgb ⟨rgb.color, p⟩ }) s.hw (.caller c.caller) .ok)) ∧
    (∀ sw, l.st = .sw sw → ∀ m,
      exec (.swSetMask c true m) s = .next (s.after c.inst
        (d.withLive { l with st := .sw ⟨m⟩ }) s.hw (.caller c.caller) .ok))

/-- R154, D13: `RGB.SetPeriod(0)` is refused, or returns `InvalidArgument` with no state change, as the configuration
says. -/
def Obligations.ZeroPeriodIsNotStored : Prop :=
  ∀ s c d l rgb, Holds s c d l → s.env.bufOk = true → l.st = .rgb rgb →
    (s.cfg.periodZero = .refuse → exec (.rgbSetPeriod c true 0) s = .refused .periodInvariant) ∧
    (s.cfg.periodZero = .invalidArgument →
      exec (.rgbSetPeriod c true 0) s = .next (s.answer (.caller c.caller) (.error .invalidArgument)))

/-- R152, R155, R157: `RGB.SetValue` writes the three duties and the period, in that order, each followed by its
barrier, stores the colour, and changes nothing else. R57, R265: what the outputs see on the way is the old content,
then after each write the mixture that differs in the one register written, then the new content; and what each of the
three outputs shows of them. -/
def Obligations.SetValueProgramsDuties : Prop :=
  ∀ s c d l rgb packed, Holds s c d l → s.env.bufOk = true → l.st = .rgb rgb → s.cfg.wf →
    ∃ hw' t, exec (.rgbSetValue c true packed) s = .next t ∧
      t = s.after c.inst
        ((d.withLive { l with st := .rgb ⟨decodeColor packed, rgb.period⟩ }).withEvents
          (colorEvents s.cfg rgb.period (decodeColor packed))) hw' (.caller c.caller) .ok ∧
      ColorWritten s.cfg d.base rgb.period (decodeColor packed) s.hw hw' ∧
      PassesThrough d.base (colorWrites s.cfg rgb.period (decodeColor packed)) (contentsDuring s t c.inst) s.hw hw' ∧
      MixedOutputs s.cfg d.base rgb.period (decodeColor packed) s.hw (pwmOutputsDuring s t c.inst)

/-- R38: an output is defined exactly where its duty and the period are written, the period is above 0 and the duty at
most the period, and then it is the duty out of the period; each output of a PWM block follows its own duty register.
R155, R139: after `RGB.SetValue` with a period above 0 every PWM output is defined, at its duty out of the period, and
never fully on. -/
def Obligations.SetValueDefinesOutputs : Prop :=
  (∀ duty period x y, pwmFraction duty period = some (x, y) ↔
    ∃ v w, duty = some v ∧ period = some w ∧ 0 < w.toNat ∧ v.toNat ≤ w.toNat ∧ x = v.toNat ∧ y = w.toNat) ∧
  (∀ (hw : Memory) a v, hw.word? a = some v ↔ hw.read a = some (.word v)) ∧
  (∀ s id d, s.devices[id]? = some d → d.kind = .rgb → ∀ p, p = s.hw.word? (d.base + s.cfg.offPeriod) →
    pwmOutput s id .r = pwmFraction (s.hw.word? (d.base + s.cfg.offDutyR)) p ∧
    pwmOutput s id .g = pwmFraction (s.hw.word? (d.base + s.cfg.offDutyG)) p ∧
    pwmOutput s id .b = pwmFraction (s.hw.word? (d.base + s.cfg.offDutyB)) p) ∧
  ∀ s c d l rgb packed t, Holds s c d l → s.env.bufOk = true → l.st = .rgb rgb → s.cfg.wf → rgb.period ≠ 0 →
    exec (.rgbSetValue c true packed) s = .next t →
    pwmOutput t c.inst .r = some (exactDuty rgb.period (decodeColor packed).r s.cfg.maxDivisor, rgb.period.toNat) ∧
    pwmOutput t c.inst .g = some (exactDuty rgb.period (decodeColor packed).g s.cfg.maxDivisor, rgb.period.toNat) ∧
    pwmOutput t c.inst .b = some (exactDuty rgb.period (decodeColor packed).b s.cfg.maxDivisor, rgb.period.toNat) ∧
    ∀ ch x y, pwmOutput t c.inst ch = some (x, y) → x < y

/-- R34: the outputs of an LED bank follow the pattern in `LED_DATA`. R174, R175: `LED.Reset` writes `initValue & mask`
to `LED_DATA`, once, and changes nothing else; with no transfer it does not depend on the buffer. The outputs show what
they showed, then that pattern. -/
def Obligations.LedResetWritesMaskedInit : Prop :=
  (∀ s id d, s.devices[id]? = some d → d.kind = .led →
    ∀ v, ledOutput s id = some v ↔ s.hw.read (d.base + s.cfg.offLedData) = some (.byte v)) ∧
  ∀ s c d l led priv, Holds s c d l → l.st = .led led →
    ∃ hw' t, exec (.ledReset c priv) s = .next t ∧
      t = s.after c.inst
        (d.withEvents (writeEvents s.cfg.offLedData (.byte (led.initValue &&& led.mask)))) hw' (.caller c.caller) .ok ∧
      WroteOnly s.hw hw' (d.base + s.cfg.offLedData) (.byte (led.initValue &&& led.mask)) ∧
      ledOutput t c.inst = some (led.initValue &&& led.mask) ∧
      ledOutputsDuring s t c.inst = [ledOutput s c.inst, some (led.initValue &&& led.mask)]

/-! ## Register File (spec/40_register_file.md) -/

/-- R111, R112, R26, R55, R58: on a live device, a write of a declared register at its declared width makes one access
and one barrier and leaves the value in that register alone; the masked write leaves `value & mask`, whatever the
register held. An 8-bit write passes its `u8` zero-extended. That this covers a direct write of a Switch's `SW_DATA`,
whose cell no read shows (R25, R34), is the model's choice (notes/assumptions/18.md). -/
def Obligations.RegisterWriteLeavesValue : Prop :=
  ∀ s w d l offset (v : Word) (b m : Byte), s.devices[w.inst]? = some d → d.life = .attached l →
    ((offset, .w32) ∈ declaredRegs s.cfg l.st.kind →
      ∃ hw', exec (.rfWrite w offset .w32 v) s = .next (s.after w.inst (d.withEvents (writeEvents offset (.word v))) hw'
          (.caller w.caller) .ok) ∧ WroteOnly s.hw hw' (d.base + offset) (.word v)) ∧
    ((offset, .w8) ∈ declaredRegs s.cfg l.st.kind →
      (∃ hw', exec (.rfWrite w offset .w8 (b.setWidth 32)) s = .next (s.after w.inst
          (d.withEvents (writeEvents offset (.byte b))) hw' (.caller w.caller) .ok) ∧
        WroteOnly s.hw hw' (d.base + offset) (.byte b)) ∧
      (∃ hw', exec (.rfWriteMasked8 w offset b m) s = .next (s.after w.inst
          (d.withEvents (writeEvents offset (.byte (b &&& m)))) hw' (.caller w.caller) .ok) ∧
        WroteOnly s.hw hw' (d.base + offset) (.byte (b &&& m))))

/-- R110, R34, R115: a read of `SW_DATA` returns the present switch levels. A read of a register the source never reads
is refused with `READBACK = refuse`; with `READBACK = stored` it returns the content, or is refused while the register
is unwritten. A read that returns makes one access and changes nothing else. Where the address was last written at the
other width, by a device now dead, the read returns any value, the environment's draw: the model's choice
(notes/assumptions/27.md). -/
def Obligations.RegisterReadReturnsValue : Prop :=
  ∀ s w d l offset, s.devices[w.inst]? = some d → d.life = .attached l →
    (∀ sw, l.st = .sw sw → exec (.rfRead w s.cfg.offSwData .w8) s = .next (s.after w.inst
      (d.withEvents [.read s.cfg.offSwData (.byte s.env.swIn)]) s.hw (.caller w.caller) (.u8 s.env.swIn))) ∧
    (l.st.kind ≠ .sw →
      (∀ width, (offset, width) ∈ declaredRegs s.cfg l.st.kind →
        (s.cfg.readback = .refuse → exec (.rfRead w offset width) s = .refused .readback) ∧
        (s.cfg.readback = .stored → s.hw.read (d.base + offset) = none →
          exec (.rfRead w offset width) s = .refused .unwritten)) ∧
      (∀ v, (offset, .w32) ∈ declaredRegs s.cfg l.st.kind → s.cfg.readback = .stored →
        s.hw.read (d.base + offset) = some (.word v) →
        exec (.rfRead w offset .w32) s = .next (s.after w.inst (d.withEvents [.read offset (.word v)]) s.hw
          (.caller w.caller) (.u32 v))) ∧
      (∀ v, (offset, .w8) ∈ declaredRegs s.cfg l.st.kind → s.cfg.readback = .stored →
        s.hw.read (d.base + offset) = some (.byte v) →
        exec (.rfRead w offset .w8) s = .next (s.after w.inst (d.withEvents [.read offset (.byte v)]) s.hw
          (.caller w.caller) (.u8 v))) ∧
      (∀ v, (offset, .w32) ∈ declaredRegs s.cfg l.st.kind → s.cfg.readback = .stored →
        s.hw.read (d.base + offset) = some (.byte v) →
        exec (.rfRead w offset .w32) s = .next (s.after w.inst (d.withEvents [.read offset (.word s.env.overlaid)]) s.hw
          (.caller w.caller) (.u32 s.env.overlaid))) ∧
      (∀ v, (offset, .w8) ∈ declaredRegs s.cfg l.st.kind → s.cfg.readback = .stored →
        s.hw.read (d.base + offset) = some (.word v) →
        exec (.rfRead w offset .w8) s = .next (s.after w.inst
          (d.withEvents [.read offset (.byte (s.env.overlaid.setWidth 8))]) s.hw
          (.caller w.caller) (.u8 (s.env.overlaid.setWidth 8)))))

/-- R51: the declared registers of each kind, each with its width, and no other. R54, R114: an undeclared offset, a width not declared for the offset, or a device that is not Attached ends the
operation with a programming error before any access. -/
def Obligations.RegisterFileFailsFast : Prop :=
  (∀ (cfg : Config) r,
    (r ∈ declaredRegs cfg .rgb ↔
      r = (cfg.offDutyR, .w32) ∨ r = (cfg.offDutyG, .w32) ∨ r = (cfg.offDutyB, .w32) ∨ r = (cfg.offPeriod, .w32)) ∧
    (r ∈ declaredRegs cfg .led ↔ r = (cfg.offLedData, .w8)) ∧ (r ∈ declaredRegs cfg .sw ↔ r = (cfg.offSwData, .w8))) ∧
  ∀ s w offset width value v8 m8,
    (s.live? w.inst = none →
      exec (.rfRead w offset width) s = .fault (.programmingError .lifetime) ∧
      exec (.rfWrite w offset width value) s = .fault (.programmingError .lifetime) ∧
      exec (.rfWriteMasked8 w offset v8 m8) s = .fault (.programmingError .lifetime)) ∧
    (∀ l, s.live? w.inst = some l → (offset, width) ∉ declaredRegs s.cfg l.st.kind →
      exec (.rfRead w offset width) s = .fault (.programmingError .offset) ∧
      exec (.rfWrite w offset width value) s = .fault (.programmingError .offset) ∧
      (width = .w8 → exec (.rfWriteMasked8 w offset v8 m8) s = .fault (.programmingError .offset)))

/-- R113, R60: a barrier on a live device completes and changes no register, Peripheral State, guard or session. R254,
R65: on a device that is not Attached it is a programming error, as every direct Register File call is. That a barrier
stands in the event history of its block is the model's choice (notes/assumptions/19.md). -/
def Obligations.BarrierChangesNothing : Prop :=
  (∀ s w d l, s.devices[w.inst]? = some d → d.life = .attached l →
    exec (.rfBarrier w) s = .next (s.after w.inst (d.withEvents [.barrier]) s.hw (.caller w.caller) .ok)) ∧
  (∀ s w, s.live? w.inst = none → exec (.rfBarrier w) s = .fault (.programmingError .lifetime))

/-! ## Session Guard (spec/20_memory.md) -/

/-- R61: on a free guard `acquire` grants a fresh token, which becomes the holder. The freshness is
`TokensStayDistinct`; that tokens are numbers from a counter is the model's choice (notes/assumptions/3.md). -/
def Obligations.AcquireOnFreeGuardGrants : Prop :=
  ∀ s w d l, s.devices[w.inst]? = some d → d.life = .attached l → l.holder = none →
    exec (.guardAcquire w) s = .next ({ s with nextToken := s.nextToken + 1 }.after w.inst
      (d.withLive { l with holder := some s.nextToken, session := none }) s.hw (.caller w.caller) (.token s.nextToken))

/-- R61: on a held guard the caller of `acquire`, and of an `open` with an allowed mode, joins the blocked callers, gets
no result, and nothing else changes. That a caller already blocked makes no second call, and that callers have numbers,
is the model's choice (notes/assumptions/14.md). -/
def Obligations.AcquireOnHeldGuardBlocks : Prop :=
  ∀ s w d l, s.devices[w.inst]? = some d → d.life = .attached l → l.holder ≠ none →
    (∀ e ∈ s.devices, ∀ x ∈ e.blocked, x.caller ≠ w.caller) →
    exec (.guardAcquire w) s = .next { s with
      devices := s.devices.set w.inst { d with blocked := d.blocked ++ [⟨w.caller, none⟩] } } ∧
    ∀ m, modeAllowed s.cfg l.st.kind m = true → exec (openOf l.st.kind w m) s = .next { s with
      devices := s.devices.set w.inst { d with blocked := d.blocked ++ [⟨w.caller, some m⟩] } }

/-- R62: with no blocked caller, `release` with the holder's token frees the guard; a release with any other token is a
programming error. That the Session ends with it, and that a release on a device that is not Attached is refused, which
R254 does not say of a bare release, are the model's choices (notes/assumptions/9.md, 16.md). -/
def Obligations.ReleaseFreesGuard : Prop :=
  (∀ s c d l, Holds s c d l → d.blocked = [] →
    exec (.guardRelease c) s = .next (s.after c.inst
      (d.withLive { l with holder := none, session := none }) s.hw (.caller c.caller) .ok)) ∧
  (∀ s c l, s.live? c.inst = some l → l.holder ≠ some c.token →
      exec (.guardRelease c) s = .fault (.programmingError .notHolder)) ∧
  (∀ s c, s.live? c.inst = none → exec (.guardRelease c) s = .refused .deadInstance)

/-- R61, R62, U9: with blocked callers, `release` grants a fresh token to one of them, and for each of them there is a
draw of the environment that grants it; a caller blocked in `open` gets its Session. The token's number, that the
releaser's Session ends with the release, and the order of the two results in one step are the model's choices
(notes/assumptions/3.md, 9.md, 15.md). -/
def Obligations.ReleaseGrantsAnyWaiter : Prop :=
  ∀ s c d l, Holds s c d l → d.blocked ≠ [] →
    (∃ k x, d.blocked[k]? = some x ∧ exec (.guardRelease c) s = .next { s with
      nextToken := s.nextToken + 1
      devices := s.devices.set c.inst { d with
        life := .attached { l with holder := some s.nextToken, session := x.mode.map (newSession s.cfg s.nextToken) }
        blocked := d.blocked.eraseIdx k }
      replies := s.replies ++ [⟨.caller c.caller, .ok⟩, ⟨.caller x.caller, grantRet s.nextToken x.mode⟩] }) ∧
    (∀ k x, d.blocked[k]? = some x → ∃ t : State,
      exec (.guardRelease c) { s with env := { s.env with grant := k } } = .next t ∧
      t.replies = s.replies ++ [⟨.caller c.caller, .ok⟩, ⟨.caller x.caller, grantRet s.nextToken x.mode⟩])

/-! ## Stream Adapter (spec/44_stream_adapter.md) -/

/-- R190, R31: `open` with an allowed mode on a free guard grants a token and creates the Session with `pos` 0, an empty
read buffer and a write buffer of NULs; no register and no Peripheral State changes. The token's number is the model's
choice (notes/assumptions/3.md). -/
def Obligations.OpenCreatesSession : Prop :=
  ∀ s w d l m, s.devices[w.inst]? = some d → d.life = .attached l → l.holder = none →
    modeAllowed s.cfg l.st.kind m = true →
    exec (openOf l.st.kind w m) s = .next ({ s with nextToken := s.nextToken + 1 }.after w.inst
      (d.withLive { l with
        holder := some s.nextToken
        session := some ⟨s.nextToken, m, 0, [], List.replicate s.cfg.wrBufSize 0⟩ })
      s.hw (.caller w.caller) (.session s.nextToken))

/-- R190: `open` with a mode the kind does not allow returns `InvalidArgument` at once, whoever holds the guard; on a
device that is not Attached it is refused. LED allows `WriteOnly` only, RGB all three, Switch all three or `ReadOnly`
only by `SWITCH_OPEN_READONLY`. -/
def Obligations.OpenChecksMode : Prop :=
  (∀ s w d l m, s.devices[w.inst]? = some d → d.life = .attached l → modeAllowed s.cfg l.st.kind m = false →
    exec (openOf l.st.kind w m) s = .next (s.answer (.caller w.caller) (.error .invalidArgument))) ∧
  (∀ s w k m, s.live? w.inst = none → exec (openOf k w m) s = .refused .deadInstance) ∧
  (∀ cfg m, (modeAllowed cfg .led m = true ↔ m = .writeOnly) ∧ modeAllowed cfg .rgb m = true ∧
    (modeAllowed cfg .sw m = true ↔ cfg.switchOpenReadonly = false ∨ m = .readOnly))

/-- R191, R62: `close` destroys the Session and frees the guard, with no blocked caller; registers and Peripheral State
stay. A grant to a blocked caller is that of `ReleaseGrantsAnyWaiter`: `close` is `release` there. That a `close` does
no more than a bare `release`, because a release ends the Session too, is the model's choice (notes/assumptions/9.md). -/
def Obligations.CloseEndsSession : Prop :=
  ∀ s c d l ses, InSession s c d l ses →
    (d.blocked = [] → exec (closeOf l.st.kind c) s = .next (s.after c.inst
      (d.withLive { l with holder := none, session := none }) s.hw (.caller c.caller) .ok)) ∧
    exec (closeOf l.st.kind c) s = exec (.guardRelease c) s

/-- R207, R191: every stream operation and `close` refuses a dead device and faults without the token. -/
def Obligations.StreamChecksComeInOrder : Prop :=
  ∀ s i c k, streamOf i = some (c, k) →
    (s.live? c.inst = none → exec i s = .refused .deadInstance) ∧
    (∀ l, s.live? c.inst = some l → l.holder ≠ some c.token → exec i s = .fault (.programmingError .noToken))

/-- R193 (selector 0x6C02), R198 (selector 0x7303): a read of the LED stream always returns `IOFault`, a write of the Switch stream always returns
`InvalidArgument`, whatever the mode, the buffer and the operands, and nothing else changes. -/
def Obligations.UnsupportedDirectionsReturnErrors : Prop :=
  ∀ s c d l ses, InSession s c d l ses →
    (∀ led, l.st = .led led → ∀ offset cap, (Instr.ledStreamRead c offset cap).code = 0x6C02 ∧
      exec (.ledStreamRead c offset cap) s = .next (s.answer (.caller c.caller) (.error .ioFault))) ∧
    (∀ sw, l.st = .sw sw → ∀ offset data, (Instr.swStreamWrite c offset data).code = 0x7303 ∧
      exec (.swStreamWrite c offset data) s = .next (s.answer (.caller c.caller) (.error .invalidArgument)))

/-- R204, R224: a stream read on a `WriteOnly` session and a stream write on a `ReadOnly` one are refused, whatever the
buffer. R192, R194, R195, R197: on a session of a right mode and with an inaccessible buffer the four transfers return
`IOFault` before they do anything else. -/
def Obligations.StreamTransfersAreChecked : Prop :=
  ∀ s c d l ses, InSession s c d l ses → ∀ offset cap data,
    (∀ rgb, l.st = .rgb rgb →
      (ses.mode = .writeOnly → exec (.rgbStreamRead c offset cap) s = .refused .mode) ∧
      (ses.mode = .readOnly → exec (.rgbStreamWrite c offset data) s = .refused .mode) ∧
      (s.env.bufOk = false →
        (ses.mode ≠ .writeOnly →
          exec (.rgbStreamRead c offset cap) s = .next (s.answer (.caller c.caller) (.error .ioFault))) ∧
        (ses.mode ≠ .readOnly →
          exec (.rgbStreamWrite c offset data) s = .next (s.answer (.caller c.caller) (.error .ioFault))))) ∧
    (∀ sw, l.st = .sw sw →
      (ses.mode = .writeOnly → exec (.swStreamRead c offset cap) s = .refused .mode) ∧
      (s.env.bufOk = false → ses.mode ≠ .writeOnly →
        exec (.swStreamRead c offset cap) s = .next (s.answer (.caller c.caller) (.error .ioFault)))) ∧
    (∀ led, l.st = .led led →
      (ses.mode = .readOnly → exec (.ledStreamWrite c offset data) s = .refused .mode) ∧
      (s.env.bufOk = false → ses.mode ≠ .readOnly →
        exec (.ledStreamWrite c offset data) s = .next (s.answer (.caller c.caller) (.error .ioFault))))

/-- R192, R91: an LED stream write makes one masked write per byte other than NUL, in order; the register holds the last
of them and-ed with the mask, or what it held; the position is behind them, and their number is returned. -/
def Obligations.LedWriteShowsLastPattern : Prop :=
  ∀ s c d l ses led offset (data : List Byte), InSession s c d l ses → l.st = .led led → ses.mode ≠ .readOnly →
    s.env.bufOk = true →
    ∃ hw', exec (.ledStreamWrite c offset data) s = .next (s.after c.inst
        ((d.withLive { l with session := some { ses with pos := offset + (data.filter (· ≠ 0)).length } }).withEvents
          ((data.filter (· ≠ 0)).flatMap fun b => writeEvents s.cfg.offLedData (.byte (b &&& led.mask))))
        hw' (.caller c.caller) (.count (data.filter (· ≠ 0)).length)) ∧
      (match (data.filter (· ≠ 0)).getLast? with
        | none => ∀ a, hw'.read a = s.hw.read a
        | some b => WroteOnly s.hw hw' (d.base + s.cfg.offLedData) (.byte (b &&& led.mask)))

/-- R194, R201: an RGB stream read at offset 0 makes the text of the colour the read buffer; every read returns at most
`cap` bytes of the buffer from the offset on, none beyond its end, and sets the position behind them. No register
access. -/
def Obligations.RgbReadReturnsText : Prop :=
  ∀ s c d l ses rgb offset cap, InSession s c d l ses → l.st = .rgb rgb → ses.mode ≠ .writeOnly → s.env.bufOk = true →
    ∀ text k, text = (if offset = 0 then colorText rgb.color else ses.rdBuf) →
      k = (if text.length ≤ offset then 0 else min cap (text.length - offset)) →
      exec (.rgbStreamRead c offset cap) s = .next (s.after c.inst
        (d.withLive { l with session := some { ses with rdBuf := text, pos := offset + k } }) s.hw
        (.caller c.caller) (.bytes ((text.drop offset).take k)))

/-- R197, R179, R201: a Switch stream read at offset 0 reads the register once and makes the text of the masked levels
the read buffer; at another offset it makes no access. -/
def Obligations.SwitchReadReturnsText : Prop :=
  ∀ s c d l ses sw cap, InSession s c d l ses → l.st = .sw sw → ses.mode ≠ .writeOnly → s.env.bufOk = true →
    (∀ text, text = switchText (s.env.swIn &&& sw.mask) →
      exec (.swStreamRead c 0 cap) s = .next (s.after c.inst
        ((d.withLive { l with session := some { ses with rdBuf := text, pos := min cap text.length } }).withEvents
          [.read s.cfg.offSwData (.byte s.env.swIn)]) s.hw (.caller c.caller) (.bytes (text.take cap)))) ∧
    (∀ offset k, offset ≠ 0 → k = (if ses.rdBuf.length ≤ offset then 0 else min cap (ses.rdBuf.length - offset)) →
      exec (.swStreamRead c offset cap) s = .next (s.after c.inst
        (d.withLive { l with session := some { ses with pos := offset + k } }) s.hw
        (.caller c.caller) (.bytes ((ses.rdBuf.drop offset).take k))))

/-- R195, R196, R203: an RGB stream write that fits the buffer stores its bytes there and moves the position. Where the
trimmed content is a well-formed triple, the colour is applied as by `RGB.SetValue`, with no privilege; where it is
shorter, nothing else changes. -/
def Obligations.RgbWriteAppliesTriple : Prop :=
  ∀ s c d l ses rgb offset (data : List Byte), InSession s c d l ses → l.st = .rgb rgb → ses.mode ≠ .readOnly →
    s.env.bufOk = true → s.cfg.wf → offset + data.length ≤ s.cfg.wrBufSize →
    ∀ tmp, tmp = ses.wrBuf.take offset ++ data ++ ses.wrBuf.drop (offset + data.length) →
      (∀ col, parseColor (trimmed tmp) = some col →
        ∃ hw', exec (.rgbStreamWrite c offset data) s = .next (s.after c.inst
            ((d.withLive { l with
                st := .rgb ⟨col, rgb.period⟩
                session := some { ses with wrBuf := tmp, pos := offset + data.length } }).withEvents
              (colorEvents s.cfg rgb.period col)) hw' (.caller c.caller) (.count data.length)) ∧
          ColorWritten s.cfg d.base rgb.period col s.hw hw') ∧
      ((trimmed tmp).length < 14 →
        exec (.rgbStreamWrite c offset data) s = .next (s.after c.inst
          (d.withLive { l with session := some { ses with wrBuf := tmp, pos := offset + data.length } }) s.hw
          (.caller c.caller) (.count data.length)))

/-- R88, R196: a string parses to a colour exactly when it has the 14-byte layout, with digits of either case. R89: the
trimmed content. R195: a write past the end of the buffer, a trimmed content longer than 14 bytes, and one of 14 bytes
that is no triple return `InvalidFormat` and change nothing else. -/
def Obligations.MalformedRgbWriteIsRejected : Prop :=
  (∀ text col, parseColor text = some col ↔ IsWriteText text col) ∧
  (∀ buf, IsTrimmedContent buf (trimmed buf)) ∧
  ∀ s c d l ses rgb offset (data : List Byte), InSession s c d l ses → l.st = .rgb rgb → ses.mode ≠ .readOnly →
    s.env.bufOk = true →
    ∀ tmp, tmp = ses.wrBuf.take offset ++ data ++ ses.wrBuf.drop (offset + data.length) →
      (s.cfg.wrBufSize < offset + data.length ∨ 14 < (trimmed tmp).length ∨
        (trimmed tmp).length = 14 ∧ parseColor (trimmed tmp) = none) →
      exec (.rgbStreamWrite c offset data) s = .next (s.answer (.caller c.caller) (.error .invalidFormat))

/-- R199, R97: a seek on a Switch sets the position to the offset, or to the position plus the offset, and returns it;
a negative result and `End` return `InvalidArgument`; no reset, no register access. -/
def Obligations.SwitchSeekMovesPosition : Prop :=
  ∀ s c d l ses sw (offset : Int), InSession s c d l ses → l.st = .sw sw →
    (∀ whence (new : Int), (whence = .fromStart ∧ new = offset ∨ whence = .fromCurrent ∧ new = ses.pos + offset) →
      (0 ≤ new → exec (.swSeek c offset whence) s = .next (s.after c.inst
        (d.withLive { l with session := some { ses with pos := new.toNat } }) s.hw
        (.caller c.caller) (.position new.toNat))) ∧
      (new < 0 → exec (.swSeek c offset whence) s = .next (s.answer (.caller c.caller) (.error .invalidArgument)))) ∧
    exec (.swSeek c offset .fromEnd) s = .next (s.answer (.caller c.caller) (.error .invalidArgument))

/-- R199, R200, R156: a seek on RGB first zeroes the three duties, even when it then fails; colour, period and the
period register stay. -/
def Obligations.RgbSeekZeroesDuties : Prop :=
  ∀ s c d l ses rgb (offset : Int), InSession s c d l ses → l.st = .rgb rgb → s.cfg.wf →
    ∃ hw', DutiesZeroed s.cfg d.base s.hw hw' ∧
      (∀ whence (new : Int), (whence = .fromStart ∧ new = offset ∨ whence = .fromCurrent ∧ new = ses.pos + offset) →
        (0 ≤ new → exec (.rgbSeek c offset whence) s = .next (s.after c.inst
          ((d.withLive { l with session := some { ses with pos := new.toNat } }).withEvents (dutyResetEvents s.cfg)) hw'
          (.caller c.caller) (.position new.toNat))) ∧
        (new < 0 → exec (.rgbSeek c offset whence) s = .next (s.after c.inst
          (d.withEvents (dutyResetEvents s.cfg)) hw' (.caller c.caller) (.error .invalidArgument)))) ∧
      exec (.rgbSeek c offset .fromEnd) s = .next (s.after c.inst
        (d.withEvents (dutyResetEvents s.cfg)) hw' (.caller c.caller) (.error .invalidArgument))

/-- R199, R200, R175: a seek on LED first writes `initValue & mask`, even when it then fails. -/
def Obligations.LedSeekWritesMaskedInit : Prop :=
  ∀ s c d l ses led (offset : Int), InSession s c d l ses → l.st = .led led →
    ∃ hw', WroteOnly s.hw hw' (d.base + s.cfg.offLedData) (.byte (led.initValue &&& led.mask)) ∧
      ∀ es, es = writeEvents s.cfg.offLedData (.byte (led.initValue &&& led.mask)) →
      (∀ whence (new : Int), (whence = .fromStart ∧ new = offset ∨ whence = .fromCurrent ∧ new = ses.pos + offset) →
        (0 ≤ new → exec (.ledSeek c offset whence) s = .next (s.after c.inst
          ((d.withLive { l with session := some { ses with pos := new.toNat } }).withEvents es) hw'
          (.caller c.caller) (.position new.toNat))) ∧
        (new < 0 → exec (.ledSeek c offset whence) s = .next (s.after c.inst
          (d.withEvents es) hw' (.caller c.caller) (.error .invalidArgument)))) ∧
      exec (.ledSeek c offset .fromEnd) s = .next (s.after c.inst
        (d.withEvents es) hw' (.caller c.caller) (.error .invalidArgument))

/-- R87, R90: the digits of the read texts are lower-case hexadecimal and decimal with no leading zeros, channel order
red, green, blue, and the lengths are those of the rules. -/
def Obligations.ReadTextsHaveTheFormat : Prop :=
  (∀ v : Byte, hexText v = (Nat.toDigits 16 v.toNat).map (fun ch => BitVec.ofNat 8 ch.toNat) ∧
    switchText v = (Nat.toDigits 10 v.toNat).map (fun ch => BitVec.ofNat 8 ch.toNat) ++ [0x0A] ∧
    2 ≤ (switchText v).length ∧ (switchText v).length ≤ 4) ∧
  (∀ c : ColorValue, colorText c = [0x30, 0x78] ++ hexText c.r ++ [0x20, 0x30, 0x78] ++ hexText c.g ++
      [0x20, 0x30, 0x78] ++ hexText c.b ++ [0x0A] ∧
    12 ≤ (colorText c).length ∧ (colorText c).length ≤ 15)

/-- R205: text read from the RGB stream is accepted back as a triple exactly when all three channels are at least 0x10,
and then it is the same colour; otherwise it is shorter than expected. -/
def Obligations.ReadTextIsWritableFrom16 : Prop :=
  ∀ c : ColorValue,
    (16 ≤ c.r.toNat ∧ 16 ≤ c.g.toNat ∧ 16 ≤ c.b.toNat ↔ parseColor (trimmed (colorText c)) = some c) ∧
    (¬(16 ≤ c.r.toNat ∧ 16 ≤ c.g.toNat ∧ 16 ≤ c.b.toNat) → (trimmed (colorText c)).length < 14)

/-! ## Host operations (spec/70_reset_and_hazards.md, spec/60_exceptions.md) -/

/-- R250, R251: an attach whose size does not cover the declared registers is refused; any other fails with the error
the environment draws, and then changes nothing else; where the environment lets it succeed it creates a device with the
kind's defaults, a free guard and no session, and touches no register. R40: one whose block overlaps a live device's
cannot be mapped and never succeeds; that it then fails with one of the two errors, drawn by the environment, is the
model's reading (notes/assumptions/8.md). That the size is checked first, and a device's number, are the model's choice
(notes/assumptions/20.md, 7.md). -/
def Obligations.AttachCreatesDefaults : Prop :=
  ∀ s k base size,
    ((∃ r ∈ declaredRegs s.cfg k, size < r.1 + (if r.2 = .w8 then 1 else 4)) →
      exec (.hostAttach k base size) s = .refused .extent) ∧
    ((∀ r ∈ declaredRegs s.cfg k, r.1 + (if r.2 = .w8 then 1 else 4) ≤ size) →
      (s.env.attach = .resourceExhausted →
        exec (.hostAttach k base size) s = .next (s.answer .host (.error .resourceExhausted))) ∧
      (s.env.attach = .deviceUnavailable →
        exec (.hostAttach k base size) s = .next (s.answer .host (.error .deviceUnavailable))) ∧
      (s.env.attach = .succeeds →
        (∃ d ∈ s.devices, d.live?.isSome = true ∧ base < d.base + d.extent ∧ d.base < base + size) →
        exec (.hostAttach k base size) s = .next (s.answer .host (.error (match s.env.mapError with
          | .resourceExhausted => .resourceExhausted
          | .deviceUnavailable => .deviceUnavailable)))) ∧
      (s.env.attach = .succeeds →
        (∀ d ∈ s.devices, d.live?.isSome = true → d.base + d.extent ≤ base ∨ base + size ≤ d.base) →
        exec (.hostAttach k base size) s = .next { s with
          devices := s.devices ++ [⟨base, size, .attached ⟨match k with
            | .led => .led ⟨0, 0x0F⟩
            | .rgb => .rgb ⟨⟨0, 0, 0⟩, s.cfg.periodDefault⟩
            | .sw => .sw ⟨0x0F⟩, none, none⟩, [], []⟩]
          replies := s.replies ++ [⟨.host, .device s.devices.length⟩] }))

/-- R252, R253, R156: detach and shutdown, whatever session is open, drive the device to its safe default (RGB duties 0,
LED 0x00, Switch no access) and end its lifetime; the period register and every other address stay. Blocked callers stay
(R254). That the dead device keeps a record of its mapping and events, and that no write of a running command falls after
the safe ones (D16), are the model's (notes/assumptions/25.md, 22.md). -/
def Obligations.EndOfLifetimeIsSafe : Prop :=
  ∀ s id d l i, s.devices[id]? = some d → d.life = .attached l → s.cfg.wf → (i = .hostDetach id ∨ i = .hostShutdown id) →
    (∀ rgb, l.st = .rgb rgb → ∃ hw', DutiesZeroed s.cfg d.base s.hw hw' ∧
      exec i s = .next (s.after id { d with life := .dead .rgb, events := d.events ++ dutyResetEvents s.cfg } hw' .host .ok)) ∧
    (∀ led, l.st = .led led → ∃ hw', WroteOnly s.hw hw' (d.base + s.cfg.offLedData) (.byte 0) ∧
      exec i s = .next (s.after id
        { d with life := .dead .led, events := d.events ++ writeEvents s.cfg.offLedData (.byte 0) } hw' .host .ok)) ∧
    (∀ sw, l.st = .sw sw → exec i s = .next (s.after id { d with life := .dead .sw } s.hw .host .ok))

/-- R227, R63: an interruption of a blocked caller returns `Interrupted` to it and takes it off the blocked callers; of
any other caller it has no effect; no token, Peripheral State or register changes. That the host gets `ok` after it is
the model's choice (notes/assumptions/21.md). -/
def Obligations.InterruptWakesBlockedCaller : Prop :=
  ∀ s k,
    ((∃ d ∈ s.devices, ∃ x ∈ d.blocked, x.caller = k) →
      exec (.hostInterrupt k) s = .next { s with
        devices := s.devices.map fun d => { d with blocked := d.blocked.filter fun x => x.caller ≠ k }
        replies := s.replies ++ [⟨.caller k, .error .interrupted⟩, ⟨.host, .ok⟩] }) ∧
    ((∀ d ∈ s.devices, ∀ x ∈ d.blocked, x.caller ≠ k) → exec (.hostInterrupt k) s = .next (s.answer .host .ok))

/-! ## The whole machine -/

/-- The invariants hold at power-on, with any parameters that meet R6. -/
def Obligations.InvariantsHoldAtReset : Prop :=
  ∀ cfg : Config, cfg.wf → HwCanonical (State.resetWith cfg) ∧ PeriodsPositive (State.resetWith cfg) ∧
    TokensDistinct (State.resetWith cfg) ∧ BlocksDisjoint (State.resetWith cfg) ∧ SessionsFit (State.resetWith cfg) ∧
    WaitersBlocked (State.resetWith cfg) ∧ WritesBarriered (State.resetWith cfg) ∧ ContentIsLastWrite (State.resetWith cfg)

/-- The register list stays canonical, addresses strictly rising, at every step. The list by bus address (R9), with one
cell for a register (R52), is the model's representation (notes/assumptions/7.md). -/
def Obligations.RegistersStayCanonical : Prop := ∀ s t, HwCanonical s → step s = .next t → HwCanonical t

/-- R28: "`period > 0`" at every step. -/
def Obligations.PeriodStaysPositive : Prop := ∀ s t, PeriodsPositive s → step s = .next t → PeriodsPositive t

/-- R32: at every step the outstanding tokens were granted before and differ from one another. -/
def Obligations.TokensStayDistinct : Prop := ∀ s t, TokensDistinct s → step s = .next t → TokensDistinct t

/-- R40, R50: at every step the register blocks of live devices are disjoint and cover their declared registers; and
there the content of every register a live device has written is the value of its last write (R26). That an attach
keeps the blocks apart is the model's reading (notes/assumptions/8.md); that a direct write of a Switch's `SW_DATA` leaves
a cell, which no read shows (R34), is the model's choice (notes/assumptions/18.md). -/
def Obligations.ContentStaysLastWrite : Prop :=
  (∀ s t, BlocksDisjoint s → step s = .next t → BlocksDisjoint t) ∧
  (∀ s t, BlocksDisjoint s → ContentIsLastWrite s → step s = .next t → ContentIsLastWrite t)

/-- R31, R190: at every step a live Session has an allowed mode and its buffers have their sizes. That it always holds
its guard, because a bare `GUARD.Release` ends the Session too, is the model's choice (notes/assumptions/9.md): R62 says
only that the guard becomes free. -/
def Obligations.SessionsStayFit : Prop := ∀ s t, SessionsFit s → step s = .next t → SessionsFit t

/-- At every step a caller is blocked at most once, and none is left blocked on a live device whose guard is free. R61
says that a release lets a blocked caller be granted; that it is granted in the step of the release, and that a caller
blocks only once, are the model's choices (notes/assumptions/15.md, 14.md). -/
def Obligations.NoWaiterIsForgotten : Prop := ∀ s t, WaitersBlocked s → step s = .next t → WaitersBlocked t

/-- R58, R60: at every step every register write is followed at once by its barrier. -/
def Obligations.EveryWriteHasItsBarrier : Prop := ∀ s t, WritesBarriered s → step s = .next t → WritesBarriered t

/-- R223: an operation that returns an error to its caller leaves every device's Peripheral State, guard, session,
lifetime and blocked callers as they were; and the registers too, unless it is a seek on LED or RGB, which leaves every
register but the ones its reset writes on its own device: the three duties, or `LED_DATA` (R200). -/
def Obligations.ErrorsLeaveNoPartialMutation : Prop :=
  ∀ s t i a e, exec i s = .next t → t.replies = s.replies ++ [⟨a, .error e⟩] →
    (t.devices.map fun d => { d with events := [] }) = (s.devices.map fun d => { d with events := [] }) ∧
    t.nextToken = s.nextToken ∧ (isResettingSeek i = false → t.hw = s.hw) ∧
    (∀ c offset whence, i = .rgbSeek c offset whence → ∃ d, s.devices[c.inst]? = some d ∧
      ∀ b, b ∉ [d.base + s.cfg.offDutyR, d.base + s.cfg.offDutyG, d.base + s.cfg.offDutyB] → t.hw.read b = s.hw.read b) ∧
    (∀ c offset whence, i = .ledSeek c offset whence → ∃ d, s.devices[c.inst]? = some d ∧
      ∀ b, b ≠ d.base + s.cfg.offLedData → t.hw.read b = s.hw.read b)

/-- R229: only a privileged Set command changes `initValue`, `mask` or `period` of a live device. -/
def Obligations.UnprivilegedCannotReconfigure : Prop :=
  ∀ s t i id l m, exec i s = .next t → s.live? id = some l → t.live? id = some m →
    ¬(gated i = true ∧ ∃ c k, commandOf i = some (c, k, true) ∧ c.inst = id) → SameConfig l.st m.st

/-- R64, R65: the Peripheral State of a live device changes only by an operation that presents its holder's token. A
register changes only where it is a declared register of a live device, by an operation that presents that device's
token or by the host's detach or shutdown of it; or, as the model's choice has it (notes/assumptions/17.md), by a direct
call of the Register File on it, which R116 gives to no caller. Of guard, session, lifetime and blocked callers it says
nothing. -/
def Obligations.OnlyTheHolderChangesStateAndRegisters : Prop :=
  (∀ s t i id l m, exec i s = .next t → s.live? id = some l → t.live? id = some m → m.st ≠ l.st →
    ∃ c, tokenOf i = some c ∧ c.inst = id ∧ l.holder = some c.token) ∧
  (∀ s t i a, exec i s = .next t → t.hw.read a ≠ s.hw.read a →
    ∃ id d l r, s.devices[id]? = some d ∧ d.life = .attached l ∧ r ∈ declaredRegs s.cfg l.st.kind ∧ a = d.base + r.1 ∧
      ((∃ c, tokenOf i = some c ∧ c.inst = id ∧ l.holder = some c.token) ∨ tokenlessAccess i id))

/-- R254: a dead device stays dead. R6, R37: the parameters never change. That a device keeps the record of its base and
extent in death, and that none disappears from the list of devices, are the model's choices (notes/assumptions/25.md,
7.md). -/
def Obligations.DeadDevicesStayDead : Prop :=
  ∀ s t : State, step s = .next t → t.cfg = s.cfg ∧
    ∀ (id : Nat) (d : Device), s.devices[id]? = some d → ∃ e : Device, t.devices[id]? = some e ∧ e.base = d.base ∧ e.extent = d.extent ∧
      (∀ k, d.life = .dead k → e.life = .dead k)
end

