-- ==== Sys2Proof/Laws/Memory.lean ====
section
/-! SUPPORT. The register cells: a read after a write, and that every write keeps the canonical form. -/

namespace Sys2Proof.Machine

open Sys2Proof

/-- A read after a write of the same address gives the value written. -/
@[simp] theorem memory_read_write_same (m : Memory) (a : Nat) (v : RegVal) : (m.write a v).read a = some v := by
  induction m with
  | nil => simp [Memory.write, Memory.read]
  | cons p rest ih =>
    obtain ⟨b, u⟩ := p
    by_cases h1 : a < b
    · simp [Memory.write, Memory.read, h1]
    · by_cases h2 : a = b
      · simp [Memory.write, Memory.read, h2]
      · simp [Memory.write, Memory.read, h1, h2, Ne.symm h2, ih]

/-- A write leaves every other address. -/
theorem memory_read_write_other (m : Memory) {a b : Nat} (v : RegVal) (h : b ≠ a) :
    (m.write a v).read b = m.read b := by
  induction m with
  | nil => simp [Memory.write, Memory.read, Ne.symm h]
  | cons p rest ih =>
    obtain ⟨c, u⟩ := p
    by_cases h1 : a < c
    · simp [Memory.write, Memory.read, h1, Ne.symm h]
    · by_cases h2 : a = c
      · subst h2; simp [Memory.write, Memory.read, Ne.symm h]
      · simp [Memory.write, Memory.read, h1, h2, ih]

/-- The read of an address after a write of any address. -/
theorem memory_read_write (m : Memory) (a b : Nat) (v : RegVal) :
    (m.write a v).read b = if b = a then some v else m.read b := by
  split
  · subst_vars; simp
  · rename_i h; exact memory_read_write_other m v h

/-- The addresses of a list after a write. -/
theorem memory_mem_write {m : Memory} {a x : Nat} {v : RegVal} (h : x ∈ (m.write a v).map Prod.fst) :
    x = a ∨ x ∈ m.map Prod.fst := by
  induction m with
  | nil => simpa [Memory.write] using h
  | cons p rest ih =>
    obtain ⟨b, u⟩ := p
    by_cases h1 : a < b
    · simpa [Memory.write, h1] using h
    · by_cases h2 : a = b
      · subst h2
        have h3 : x = a ∨ x ∈ rest.map Prod.fst := by simpa [Memory.write] using h
        rcases h3 with h3 | h3
        · exact .inl h3
        · exact .inr (by simp only [List.map_cons, List.mem_cons]; exact .inr h3)
      · have h3 : x = b ∨ x ∈ (Memory.write rest a v).map Prod.fst := by simpa [Memory.write, h1, h2] using h
        rcases h3 with h3 | h3
        · exact .inr (by simp only [List.map_cons, List.mem_cons]; exact .inl h3)
        · rcases ih h3 with h4 | h4
          · exact .inl h4
          · exact .inr (by simp only [List.map_cons, List.mem_cons]; exact .inr h4)

/-- A write keeps the canonical form. -/
theorem memory_write_wf {m : Memory} (a : Nat) (v : RegVal) (h : m.wf) : (m.write a v).wf := by
  induction m with
  | nil => simp [Memory.write, Memory.wf]
  | cons p rest ih =>
    obtain ⟨b, u⟩ := p
    have hb : (∀ x ∈ rest.map Prod.fst, b < x) ∧ (rest.map Prod.fst).Pairwise (· < ·) := by
      simpa only [Memory.wf, List.map_cons, List.pairwise_cons] using h
    obtain ⟨hlt, hrest⟩ := hb
    by_cases h1 : a < b
    · simp only [Memory.write, h1, if_true, Memory.wf, List.map_cons, List.pairwise_cons]
      refine ⟨?_, hlt, hrest⟩
      intro x hx
      rcases List.mem_cons.mp hx with h3 | h3
      · omega
      · exact Nat.lt_trans h1 (hlt x h3)
    · by_cases h2 : a = b
      · subst h2
        simp only [Memory.write, Nat.lt_irrefl, if_true, if_false, Memory.wf, List.map_cons, List.pairwise_cons]
        exact ⟨hlt, hrest⟩
      · simp only [Memory.write, h1, h2, if_false, Memory.wf, List.map_cons, List.pairwise_cons]
        refine ⟨?_, ih hrest⟩
        intro x hx
        rcases memory_mem_write hx with h3 | h3
        · omega
        · exact hlt x h3

/-- The registers after reset are in the canonical form. -/
theorem memory_reset_wf : Memory.wf State.reset.hw := List.Pairwise.nil

end Sys2Proof.Machine
end

