-- ==== Sys2Proof/Laws/State.lean ====
section
/-! SUPPORT. One lemma per field per update of State, each true by unfolding, so that no proof unfolds a record update;
and the device table after an update. -/

namespace Sys2Proof.Machine

open Sys2Proof

section Fields

variable (s : State) (id : Nat) (f : Device → Device) (g : Live → Live) (a : Agent) (r : Ret)

@[simp] theorem modifyDevice_cfg : (s.modifyDevice id f).cfg = s.cfg := rfl
@[simp] theorem modifyDevice_hw : (s.modifyDevice id f).hw = s.hw := rfl
@[simp] theorem modifyDevice_devices : (s.modifyDevice id f).devices = s.devices.modify id f := rfl
@[simp] theorem modifyDevice_nextToken : (s.modifyDevice id f).nextToken = s.nextToken := rfl
@[simp] theorem modifyDevice_env : (s.modifyDevice id f).env = s.env := rfl
@[simp] theorem modifyDevice_pending : (s.modifyDevice id f).pending = s.pending := rfl
@[simp] theorem modifyDevice_replies : (s.modifyDevice id f).replies = s.replies := rfl

@[simp] theorem modifyLive_eq : s.modifyLive id g = s.modifyDevice id (Device.mapLive g) := rfl
@[simp] theorem setSt_eq (st : DeviceConfig) :
    s.setSt id st = s.modifyDevice id (Device.mapLive fun l => { l with st }) := rfl
@[simp] theorem modifySession_eq (h : Session → Session) :
    s.modifySession id h = s.modifyDevice id (Device.mapLive fun l => { l with session := l.session.map h }) := rfl
@[simp] theorem logEvents_eq (es : List BusEvent) :
    s.logEvents id es = s.modifyDevice id fun d => d.withEvents es := rfl
@[simp] theorem barrier_eq : barrier id s = s.modifyDevice id fun d => d.withEvents [.barrier] := rfl
@[simp] theorem setPos_eq (n : Nat) :
    setPos id n s = s.modifyDevice id (Device.mapLive fun l =>
      { l with session := l.session.map fun ses => { ses with pos := n } }) := rfl
@[simp] theorem storeWrite_eq (tmp : List Byte) (n : Nat) :
    storeWrite id tmp n s = s.modifyDevice id (Device.mapLive fun l =>
      { l with session := l.session.map fun ses => { ses with wrBuf := tmp, pos := n } }) := rfl
@[simp] theorem freeGuard_eq :
    freeGuard id s = s.modifyDevice id (Device.mapLive fun l => { l with holder := none, session := none }) := rfl

@[simp] theorem reply_cfg : (s.reply a r).cfg = s.cfg := rfl
@[simp] theorem reply_hw : (s.reply a r).hw = s.hw := rfl
@[simp] theorem reply_devices : (s.reply a r).devices = s.devices := rfl
@[simp] theorem reply_nextToken : (s.reply a r).nextToken = s.nextToken := rfl
@[simp] theorem reply_env : (s.reply a r).env = s.env := rfl
@[simp] theorem reply_pending : (s.reply a r).pending = s.pending := rfl
@[simp] theorem reply_replies : (s.reply a r).replies = s.replies ++ [⟨a, r⟩] := rfl
@[simp] theorem raise_eq (e : Err) : s.raise a e = s.reply a (.error e) := rfl
@[simp] theorem answer_eq : s.answer a r = s.reply a r := rfl

@[simp] theorem mapLive_base (d : Device) : (d.mapLive g).base = d.base := by
  unfold Device.mapLive; split <;> rfl
@[simp] theorem mapLive_extent (d : Device) : (d.mapLive g).extent = d.extent := by
  unfold Device.mapLive; split <;> rfl
@[simp] theorem mapLive_blocked (d : Device) : (d.mapLive g).blocked = d.blocked := by
  unfold Device.mapLive; split <;> rfl
@[simp] theorem mapLive_events (d : Device) : (d.mapLive g).events = d.events := by
  unfold Device.mapLive; split <;> rfl
@[simp] theorem mapLive_live? (d : Device) : (d.mapLive g).live? = d.live?.map g := by
  unfold Device.mapLive; split <;> simp_all [Device.live?]
@[simp] theorem withEvents_base (d : Device) (es : List BusEvent) : (d.withEvents es).base = d.base := rfl
@[simp] theorem withEvents_extent (d : Device) (es : List BusEvent) : (d.withEvents es).extent = d.extent := rfl
@[simp] theorem withEvents_life (d : Device) (es : List BusEvent) : (d.withEvents es).life = d.life := rfl
@[simp] theorem withEvents_blocked (d : Device) (es : List BusEvent) : (d.withEvents es).blocked = d.blocked := rfl
@[simp] theorem withEvents_events (d : Device) (es : List BusEvent) : (d.withEvents es).events = d.events ++ es := rfl
@[simp] theorem withEvents_live? (d : Device) (es : List BusEvent) : (d.withEvents es).live? = d.live? := rfl

end Fields

/-- A live device's content is what its lifetime says. -/
theorem live?_of_life {d : Device} {l : Live} (h : d.life = .attached l) : d.live? = some l := by
  simp [Device.live?, h]

/-- And conversely. -/
theorem life_of_live? {d : Device} {l : Live} (h : d.live? = some l) : d.life = .attached l := by
  unfold Device.live? at h
  split at h
  · simp_all
  · cases h

/-- A change of a live device's content. -/
theorem mapLive_of_life {d : Device} {l : Live} (h : d.life = .attached l) (g : Live → Live) :
    d.mapLive g = d.withLive (g l) := by
  simp [Device.mapLive, Device.withLive, h]

/-- The device that is there is the one an update changes. -/
theorem modify_eq_set {α : Type} {l : List α} {i : Nat} {a : α} (h : l[i]? = some a) (f : α → α) :
    l.modify i f = l.set i (f a) := by
  have hi : i < l.length := (List.getElem?_eq_some_iff.mp h).1
  apply List.ext_getElem?
  intro j
  rw [List.getElem?_modify, List.getElem?_set]
  by_cases hj : i = j
  · subst hj; simp only [h, if_true, hi, Option.map_eq_map, Option.map_some]
  · simp [hj]

/-- What is read back after a replacement. -/
theorem get_set_self {α : Type} {l : List α} {i : Nat} {a : α} (h : l[i]? = some a) (b : α) :
    (l.set i b)[i]? = some b := by
  have hi : i < l.length := (List.getElem?_eq_some_iff.mp h).1
  simp [hi]

/-- A live device is there. -/
theorem live?_of_device {s : State} {id : Nat} {d : Device} {l : Live} (h : s.devices[id]? = some d)
    (hl : d.life = .attached l) : s.live? id = some l := by
  simp [State.live?, h, live?_of_life hl]

/-- And conversely. -/
theorem device_of_live? {s : State} {id : Nat} {l : Live} (h : s.live? id = some l) :
    ∃ d, s.devices[id]? = some d ∧ d.life = .attached l := by
  unfold State.live? at h
  cases hd : s.devices[id]? with
  | none => simp [hd] at h
  | some d => exact ⟨d, rfl, life_of_live? (by simpa [hd] using h)⟩

end Sys2Proof.Machine
end

