-- ==== Sys2Proof/Laws/Ops.lean ====
section
/-! SUPPORT. For each shared operation, once, what it does: its result where it succeeds, and everything that can be so
when it answers. -/

namespace Sys2Proof.Machine

open Sys2Proof

/-! ## Outcomes -/

@[simp] theorem finish_ok (s : State) : finish (.ok s) = .next s := rfl
@[simp] theorem finish_fault (f : Fault) : finish (.error (.fault f)) = .fault f := rfl
@[simp] theorem finish_refuse (r : Refusal) : finish (.error (.refuse r)) = .refused r := rfl

/-- An operation answers a next state exactly when it ends in success or a returned error. -/
theorem finish_next {r : Except Stop State} {t : State} : finish r = .next t ↔ r = .ok t := by
  rcases r with (_ | _) | _ <;> simp [finish]

/-- A sequence that succeeds has a first part that does. -/
theorem bind_ok {α β : Type} {x : Except Stop α} {f : α → Except Stop β} {b : β} :
    x.bind f = .ok b ↔ ∃ a, x = .ok a ∧ f a = .ok b := by
  cases x <;> simp [Except.bind]

/-- The numbering of the errors is injective where the parameters meet R6 (R220). -/
theorem errorNumber_injective {cfg : Config} (h : cfg.wf) : Function.Injective (Err.number cfg) := by
  intro a b hab
  have at_place (e : Err) : cfg.errorNumbers.toList[e.ctorIdx]? = some (e.number cfg) := by cases e <;> rfl
  have in_list : a.ctorIdx < cfg.errorNumbers.toList.length := by cases a <;> simp [ErrorNumbers.toList, Err.ctorIdx]
  have same_place : a.ctorIdx = b.ctorIdx :=
    (List.getElem?_inj in_list h.2.2.2.2.2.2).mp (by rw [at_place, at_place]; exact congrArg some hab)
  cases a <;> cases b <;> first | rfl | cases same_place

/-! ## Checks -/

/-- `liveOf` succeeds on an Attached device, with its content. -/
theorem liveOf_ok {id : Nat} {s : State} {l : Live} : liveOf id s = .ok l ↔ s.live? id = some l := by
  unfold liveOf; split <;> simp_all [refuse]

/-- `heldLive` succeeds where the token is the holder's. -/
theorem heldLive_ok {c : Ctx} {s : State} {l : Live} :
    heldLive c s = .ok l ↔ s.live? c.inst = some l ∧ l.holder = some c.token := by
  unfold heldLive liveOf
  cases h : s.live? c.inst with
  | none => simp [refuse]
  | some m =>
    simp only [Option.some.injEq]
    by_cases hm : m.holder = some c.token
    · simp only [hm, if_true, Except.ok.injEq]
      constructor
      · rintro rfl; exact ⟨rfl, hm⟩
      · rintro ⟨rfl, -⟩; rfl
    · simp only [hm, if_false, programmingError, reduceCtorEq, false_iff]
      rintro ⟨rfl, h2⟩; exact hm h2

/-- `heldLive` on the device of a caller that holds it. -/
theorem heldLive_of_holds {s : State} {c : Ctx} {d : Device} {l : Live} (h : Holds s c d l) : heldLive c s = .ok l :=
  heldLive_ok.mpr ⟨live?_of_device h.1 h.2.1, h.2.2⟩

/-- `heldSession` succeeds inside a session. -/
theorem heldSession_of_inSession {s : State} {c : Ctx} {d : Device} {l : Live} {ses : Session}
    (h : InSession s c d l ses) : heldSession c s = .ok (l, ses) := by
  simp [heldSession, heldLive_of_holds h.1, h.2.1, h.2.2]

/-- Everything `heldSession` says when it succeeds. -/
theorem heldSession_ok {s : State} {c : Ctx} {l : Live} {ses : Session} (h : heldSession c s = .ok (l, ses)) :
    s.live? c.inst = some l ∧ l.holder = some c.token ∧ l.session = some ses ∧ ses.token = c.token := by
  unfold heldSession at h
  split at h
  · cases h
  · rename_i l' hl
    split at h
    · cases h
    · rename_i ses' hs
      split at h
      · rename_i ht
        simp only [Except.ok.injEq, Prod.mk.injEq] at h
        obtain ⟨rfl, rfl⟩ := h
        exact ⟨(heldLive_ok.mp hl).1, (heldLive_ok.mp hl).2, hs, ht⟩
      · cases h

/-- A command on a device of its kind, by its holder: the privilege check, then the command's own part. -/
theorem command_of_holds {α : Type} {s : State} {c : Ctx} {d : Device} {l : Live} {known : DeviceConfig → Option α} {st : α}
    (h : Holds s c d l) (hst : known l.st = some st) (priv gated : Bool) (k : α → Except Stop State) :
    command c priv gated known s k =
      if gated && !priv then .ok (s.raise (.caller c.caller) .permissionDenied) else k st := by
  simp [command, heldLive_of_holds h, hst, raises]

/-- Everything a command can do when it answers. -/
theorem command_ok {α : Type} {s t : State} {c : Ctx} {priv gated : Bool} {known : DeviceConfig → Option α}
    {k : α → Except Stop State} (h : command c priv gated known s k = .ok t) :
    ∃ l, s.live? c.inst = some l ∧ l.holder = some c.token ∧
      (t = s.raise (.caller c.caller) .invalidCommand ∧ known l.st = none ∨
       t = s.raise (.caller c.caller) .permissionDenied ∧ gated = true ∧ priv = false ∨
       ∃ st, known l.st = some st ∧ (gated = true → priv = true) ∧ k st = .ok t) := by
  unfold command at h
  split at h
  · cases h
  · rename_i l hl
    refine ⟨l, (heldLive_ok.mp hl).1, (heldLive_ok.mp hl).2, ?_⟩
    split at h
    · rename_i hk
      simp only [raises, Except.ok.injEq] at h
      exact .inl ⟨h.symm, hk⟩
    · rename_i st hk
      split at h
      · rename_i hg
        simp only [raises, Except.ok.injEq] at h
        simp only [Bool.and_eq_true, Bool.not_eq_true'] at hg
        exact .inr (.inl ⟨h.symm, hg.1, hg.2⟩)
      · rename_i hg
        refine .inr (.inr ⟨st, hk, ?_, h⟩)
        intro hgt
        simpa [hgt] using hg

/-- Everything a stream operation's prelude can do when it answers. -/
theorem stream_ok {α : Type} {s t : State} {c : Ctx} {known : DeviceConfig → Option α}
    {k : α → Session → Except Stop State} (h : stream c known s k = .ok t) :
    ∃ l ses st, s.live? c.inst = some l ∧ l.holder = some c.token ∧ l.session = some ses ∧ ses.token = c.token ∧
      known l.st = some st ∧ k st ses = .ok t := by
  unfold stream at h
  split at h
  · cases h
  · rename_i l ses hs
    obtain ⟨h1, h2, h3, h4⟩ := heldSession_ok hs
    split at h
    · cases h
    · rename_i st hk; exact ⟨l, ses, st, h1, h2, h3, h4, hk, h⟩

/-- A stream operation on a device of its kind, inside its session. -/
theorem stream_of_inSession {α : Type} {s : State} {c : Ctx} {d : Device} {l : Live} {ses : Session}
    {known : DeviceConfig → Option α} {st : α} (h : InSession s c d l ses) (hst : known l.st = some st)
    (k : α → Session → Except Stop State) : stream c known s k = k st ses := by
  simp [stream, heldSession_of_inSession h, hst]

/-- `CopyIn` goes on or returns `IOFault`. -/
theorem copyIn_ok {caller : Nat} {s t : State} {k : Except Stop State} (h : copyIn caller s k = .ok t) :
    s.env.bufOk = true ∧ k = .ok t ∨ s.env.bufOk = false ∧ t = s.raise (.caller caller) .ioFault := by
  unfold copyIn at h
  split at h
  · exact .inl ⟨by assumption, h⟩
  · simp only [raises, Except.ok.injEq] at h
    exact .inr ⟨by simpa using ‹¬s.env.bufOk = true›, h.symm⟩

/-- `CopyOut` returns the result or `IOFault`. -/
theorem copyOut_ok {caller : Nat} {s t : State} {r : Ret} (h : copyOut caller r s = .ok t) :
    s.env.bufOk = true ∧ t = s.reply (.caller caller) r ∨
      s.env.bufOk = false ∧ t = s.raise (.caller caller) .ioFault := by
  unfold copyOut at h
  split at h
  · simp only [returns, Except.ok.injEq] at h
    exact .inl ⟨by assumption, h.symm⟩
  · simp only [raises, Except.ok.injEq] at h
    exact .inr ⟨by simpa using ‹¬s.env.bufOk = true›, h.symm⟩

/-- A mode check that lets the operation go on. -/
theorem requireMode_ok {b : Bool} {k : Except Stop State} {t : State} :
    requireMode b k = .ok t ↔ b = true ∧ k = .ok t := by
  unfold requireMode; split <;> simp_all [refuse]

/-! ## Register accesses -/

/-- The value of a write at a width has that width. -/
@[simp] theorem ofWord_width (w : Width) (v : Word) : (RegVal.ofWord w v).width = w := by cases w <;> rfl

/-- Everything `registerValue` can do when it answers: the switch levels, the content, or a draw; always at the width
asked for where that is the declared one. -/
theorem registerValue_ok {s : State} {k : Kind} {a : Nat} {w : Width} {v : RegVal} (h : registerValue s k a w = .ok v) :
    k = .sw ∧ v = .byte s.env.swIn ∨
    k ≠ .sw ∧ s.cfg.readback = .stored ∧ v.width = w ∧
      ∃ u, s.hw.read a = some u ∧ (v = u ∨ u.width ≠ w ∧ v = .ofWord w s.env.overlaid) := by
  unfold registerValue at h
  split at h
  · cases h; exact .inl ⟨rfl, rfl⟩
  all_goals
    split at h
    · cases h
    · rename_i hrb
      split at h
      · rename_i u hu
        cases h
        refine .inr ⟨by simp, hrb, ?_, u, hu, ?_⟩ <;> split <;> simp_all
      · cases h

/-- `declared` is membership in the list of declared registers. -/
theorem declared_iff {cfg : Config} {k : Kind} {offset : Nat} {w : Width} :
    declared cfg k offset w = true ↔ (offset, w) ∈ declaredRegs cfg k := by
  simp [declared]

/-- A write of a declared register of a live device, in full. -/
theorem writeRegister_spec {s : State} {id offset : Nat} {v : RegVal} {d : Device} {l : Live}
    (hd : s.devices[id]? = some d) (hl : d.life = .attached l) (hdecl : (offset, v.width) ∈ declaredRegs s.cfg l.st.kind) :
    writeRegister id offset v s = .ok { s with
      hw := Memory.write s.hw (d.base + offset) v
      devices := s.devices.set id (d.withEvents (writeEvents offset v)) } := by
  simp only [writeRegister, hd, hl, declared_iff.mpr hdecl, if_true, Except.ok.injEq]
  simp only [memWrite, barrier_eq, logEvents_eq, State.modifyDevice]
  congr 1
  rw [modify_eq_set (get_set_self hd _ |> fun h => by rw [modify_eq_set hd]; exact h), modify_eq_set hd]
  simp [Device.withEvents, writeEvents]

/-- Everything `writeRegister` can do when it answers. -/
theorem writeRegister_ok {s t : State} {id offset : Nat} {v : RegVal} (h : writeRegister id offset v s = .ok t) :
    ∃ d l, s.devices[id]? = some d ∧ d.life = .attached l ∧ (offset, v.width) ∈ declaredRegs s.cfg l.st.kind ∧
      t = { s with
        hw := Memory.write s.hw (d.base + offset) v
        devices := s.devices.set id (d.withEvents (writeEvents offset v)) } := by
  have h0 := h
  unfold writeRegister at h
  split at h
  · cases h
  · rename_i d hd
    split at h
    · cases h
    · rename_i l hl
      split at h
      · rename_i hdecl
        refine ⟨d, l, hd, hl, declared_iff.mp hdecl, ?_⟩
        rw [writeRegister_spec hd hl (declared_iff.mp hdecl)] at h0
        exact (Except.ok.inj h0).symm
      · cases h

/-- Everything `readRegister` can do when it answers. -/
theorem readRegister_ok {s t : State} {id offset : Nat} {w : Width} {v : RegVal}
    (h : readRegister id offset w s = .ok (v, t)) :
    ∃ d l, s.devices[id]? = some d ∧ d.life = .attached l ∧ (offset, w) ∈ declaredRegs s.cfg l.st.kind ∧
      registerValue s l.st.kind (d.base + offset) w = .ok v ∧
      t = { s with devices := s.devices.set id (d.withEvents [.read offset v]) } := by
  unfold readRegister at h
  split at h
  · cases h
  · rename_i d hd
    split at h
    · cases h
    · rename_i l hl
      split at h
      · rename_i hdecl
        split at h
        · rename_i v' hv
          simp only [Except.ok.injEq, Prod.mk.injEq] at h
          obtain ⟨rfl, rfl⟩ := h
          refine ⟨d, l, hd, hl, declared_iff.mp hdecl, hv, ?_⟩
          simp only [logEvents_eq, State.modifyDevice, modify_eq_set hd]
        · cases h
      · cases h

/-- A read of the switch register of a live Switch, in full. -/
theorem readRegister_switch {s : State} {id : Nat} {d : Device} {l : Live} {sw : SwState}
    (hd : s.devices[id]? = some d) (hl : d.life = .attached l) (hst : l.st = .sw sw) :
    readRegister id s.cfg.offSwData .w8 s = .ok (.byte s.env.swIn,
      { s with devices := s.devices.set id (d.withEvents [.read s.cfg.offSwData (.byte s.env.swIn)]) }) := by
  simp [readRegister, hd, hl, hst, DeviceConfig.kind, declared, declaredRegs, registerValue, State.modifyDevice,
    modify_eq_set hd]

end Sys2Proof.Machine
end

