-- ==== Sys2Proof/Laws/Effects.lean ====
section
/-! SUPPORT. What one operation can do, said once: every next state is reached by a chain of primitive effects. An
invariant of the machine needs one short lemma per effect, and cites `step_effects`. -/

namespace Sys2Proof.Machine

open Sys2Proof

/-- One primitive change of the state, with what is known where it is made. -/
inductive Effect : State → State → Prop where
  /-- a result is returned -/
  | reply {s : State} (a : Agent) (r : Ret) : Effect s (s.reply a r)
  /-- a barrier that stands alone -/
  | barrier {s : State} (id : Nat) : Effect s (s.modifyDevice id fun d => d.withEvents [.barrier])
  /-- a read access -/
  | readAccess {s : State} {id : Nat} {d : Device} (hd : s.devices[id]? = some d) (offset : Nat) (v : RegVal) :
      Effect s { s with devices := s.devices.set id (d.withEvents [.read offset v]) }
  /-- a write access and its barrier -/
  | writeAccess {s : State} {id : Nat} {d : Device} {l : Live} {offset : Nat} {v : RegVal}
      (hd : s.devices[id]? = some d) (hl : d.life = .attached l)
      (hdecl : (offset, v.width) ∈ declaredRegs s.cfg l.st.kind) :
      Effect s { s with
        hw := Memory.write s.hw (d.base + offset) v
        devices := s.devices.set id (d.withEvents (writeEvents offset v)) }
  /-- the Peripheral State changes; no period becomes 0 -/
  | peripheral {s : State} {id : Nat} {d : Device} {l : Live} {st : DeviceConfig}
      (hd : s.devices[id]? = some d) (hl : d.life = .attached l) (hk : st.kind = l.st.kind)
      (hp : ∀ rgb ∈ st.rgb?, rgb.period = 0 → ∃ old ∈ l.st.rgb?, old.period = 0) :
      Effect s { s with devices := s.devices.set id (d.withLive { l with st }) }
  /-- the position or a buffer of the Session changes -/
  | session {s : State} {id : Nat} {d : Device} {l : Live} {old new : Session}
      (hd : s.devices[id]? = some d) (hl : d.life = .attached l) (hs : l.session = some old)
      (ht : new.token = old.token) (hm : new.mode = old.mode)
      (hw : old.wrBuf.length = s.cfg.wrBufSize → new.wrBuf.length = s.cfg.wrBufSize)
      (hr : new.rdBuf.length ≤ max 15 old.rdBuf.length) :
      Effect s { s with devices := s.devices.set id (d.withLive { l with session := some new }) }
  /-- a free guard is taken -/
  | grant {s : State} {id : Nat} {d : Device} {l : Live} {mode : Option Mode}
      (hd : s.devices[id]? = some d) (hl : d.life = .attached l) (hfree : l.holder = none)
      (hm : ∀ m ∈ mode, modeAllowed s.cfg l.st.kind m = true) :
      Effect s { s with
        nextToken := s.nextToken + 1
        devices := s.devices.set id (d.withLive { l with
          holder := some s.nextToken, session := mode.map (newSession s.cfg s.nextToken) }) }
  /-- a caller blocks on a held guard -/
  | block {s : State} {id : Nat} {d : Device} {l : Live} {w : Waiter}
      (hd : s.devices[id]? = some d) (hl : d.life = .attached l) (hheld : l.holder ≠ none)
      (hm : ∀ m ∈ w.mode, modeAllowed s.cfg l.st.kind m = true) (hb : s.isBlocked w.caller = false) :
      Effect s { s with devices := s.devices.set id { d with blocked := d.blocked ++ [w] } }
  /-- a guard nobody waits for is freed -/
  | free {s : State} {id : Nat} {d : Device} {l : Live}
      (hd : s.devices[id]? = some d) (hl : d.life = .attached l) (hb : d.blocked = []) :
      Effect s { s with devices := s.devices.set id (d.withLive { l with holder := none, session := none }) }
  /-- a guard passes from its holder to one blocked caller -/
  | handOver {s : State} {id : Nat} {d : Device} {l : Live} {k : Nat} {w : Waiter}
      (hd : s.devices[id]? = some d) (hl : d.life = .attached l) (hw : d.blocked[k]? = some w) :
      Effect s { s with
        nextToken := s.nextToken + 1
        devices := s.devices.set id { d with
          life := .attached { l with
            holder := some s.nextToken, session := w.mode.map (newSession s.cfg s.nextToken) }
          blocked := d.blocked.eraseIdx k } }
  /-- a device is created -/
  | attach {s : State} {k : Kind} {base size : Nat} (hc : covers s.cfg k size = true)
      (ho : overlapsLive s base size = false) :
      Effect s { s with devices := s.devices ++ [newDevice s.cfg k base size] }
  /-- a lifetime ends -/
  | kill {s : State} {id : Nat} {d : Device} {l : Live} (hd : s.devices[id]? = some d) (hl : d.life = .attached l) :
      Effect s { s with devices := s.devices.set id { d with life := .dead l.st.kind } }
  /-- a blocked caller leaves -/
  | unblock {s : State} (caller : Nat) : Effect s (unblock caller s)

/-- A chain of effects. -/
abbrev Effects : State → State → Prop := Relation.ReflTransGen Effect

theorem Effect.chain {s t : State} (h : Effect s t) : Effects s t := .single h

/-! ## The chain of each shared operation -/

/-- A result returned ends an operation with one effect. -/
theorem returns_effects {caller : Nat} {r : Ret} {s t : State} (h : returns caller r s = .ok t) : Effects s t := by
  cases h; exact (Effect.reply _ _).chain

theorem raises_effects {caller : Nat} {e : Err} {s t : State} (h : raises caller e s = .ok t) : Effects s t := by
  cases h; exact (Effect.reply _ _).chain

/-- What follows a chain and ends with a result. -/
theorem bind_returns_effects {x : Except Stop State} {caller : Nat} {r : Ret} {s t : State}
    (h : x.bind (returns caller r) = .ok t) (hx : ∀ u, x = .ok u → Effects s u) : Effects s t := by
  obtain ⟨u, hu, ht⟩ := bind_ok.mp h
  exact (hx u hu).trans (returns_effects ht)

theorem copyOut_effects {caller : Nat} {r : Ret} {s t : State} (h : copyOut caller r s = .ok t) : Effects s t := by
  rcases copyOut_ok h with ⟨-, rfl⟩ | ⟨-, rfl⟩ <;> exact (Effect.reply _ _).chain

theorem copyIn_effects {caller : Nat} {s t : State} {k : Except Stop State} (h : copyIn caller s k = .ok t)
    (hk : k = .ok t → Effects s t) : Effects s t := by
  rcases copyIn_ok h with ⟨-, h⟩ | ⟨-, rfl⟩
  · exact hk h
  · exact (Effect.reply _ _).chain

/-- A command's chain, from the chain of its own part on a device of its kind. -/
theorem command_effects {α : Type} {s t : State} {c : Ctx} {priv gated : Bool} {known : DeviceConfig → Option α}
    {k : α → Except Stop State} (h : command c priv gated known s k = .ok t)
    (hk : ∀ d l st, Holds s c d l → known l.st = some st → k st = .ok t → Effects s t) : Effects s t := by
  obtain ⟨l, h1, h2, h⟩ := command_ok h
  obtain ⟨d, hd, hl⟩ := device_of_live? h1
  rcases h with ⟨rfl, -⟩ | ⟨rfl, -⟩ | ⟨st, hst, -, h⟩
  · exact (Effect.reply _ _).chain
  · exact (Effect.reply _ _).chain
  · exact hk d l st ⟨hd, hl, h2⟩ hst h

/-- A stream operation's chain, from the chain of its own part inside the session. -/
theorem stream_effects {α : Type} {s t : State} {c : Ctx} {known : DeviceConfig → Option α}
    {k : α → Session → Except Stop State} (h : stream c known s k = .ok t)
    (hk : ∀ d l ses st, InSession s c d l ses → known l.st = some st → k st ses = .ok t → Effects s t) :
    Effects s t := by
  obtain ⟨l, ses, st, h1, h2, h3, h4, hst, h⟩ := stream_ok h
  obtain ⟨d, hd, hl⟩ := device_of_live? h1
  exact hk d l ses st ⟨⟨hd, hl, h2⟩, h3, h4⟩ hst h

theorem writeRegister_effects {s t : State} {id offset : Nat} {v : RegVal} (h : writeRegister id offset v s = .ok t) :
    Effects s t := by
  obtain ⟨d, l, hd, hl, hdecl, rfl⟩ := writeRegister_ok h
  exact (Effect.writeAccess hd hl hdecl).chain

/-- A write leaves every device's content. -/
theorem writeRegister_live? {s t : State} {id offset : Nat} {v : RegVal} (h : writeRegister id offset v s = .ok t) (j : Nat) :
    t.live? j = s.live? j := by
  obtain ⟨d, l, hd, hl, -, rfl⟩ := writeRegister_ok h
  simp only [State.live?]
  by_cases hj : id = j
  · subst hj; simp only [get_set_self hd, hd, Option.bind_some, withEvents_live?]
  · simp [hj]

theorem readRegister_effects {s t : State} {id offset : Nat} {w : Width} {v : RegVal}
    (h : readRegister id offset w s = .ok (v, t)) : Effects s t := by
  obtain ⟨d, l, hd, -, -, -, rfl⟩ := readRegister_ok h
  exact (Effect.readAccess hd _ _).chain

/-- A change of the Peripheral State of a live device. -/
theorem setSt_effects {s : State} {id : Nat} {l : Live} {st : DeviceConfig} (hl : s.live? id = some l)
    (hk : st.kind = l.st.kind) (hp : ∀ rgb ∈ st.rgb?, rgb.period = 0 → ∃ old ∈ l.st.rgb?, old.period = 0) :
    Effects s (s.setSt id st) := by
  obtain ⟨d, hd, hl⟩ := device_of_live? hl
  have : s.setSt id st = { s with devices := s.devices.set id (d.withLive { l with st }) } := by
    simp [State.modifyDevice, modify_eq_set hd, mapLive_of_life hl]
  rw [this]; exact (Effect.peripheral hd hl hk hp).chain

/-- A change of the Session of a live device. -/
theorem modifySession_effects {s : State} {id : Nat} {l : Live} {old : Session} {f : Session → Session}
    (hl : s.live? id = some l) (hs : l.session = some old) (ht : (f old).token = old.token)
    (hm : (f old).mode = old.mode)
    (hw : old.wrBuf.length = s.cfg.wrBufSize → (f old).wrBuf.length = s.cfg.wrBufSize)
    (hr : (f old).rdBuf.length ≤ max 15 old.rdBuf.length) : Effects s (s.modifySession id f) := by
  obtain ⟨d, hd, hl⟩ := device_of_live? hl
  have : s.modifySession id f =
      { s with devices := s.devices.set id (d.withLive { l with session := some (f old) }) } := by
    simp [State.modifyDevice, modify_eq_set hd, mapLive_of_life hl, hs]
  rw [this]; exact (Effect.session hd hl hs ht hm hw hr).chain

/-- The content of a device after its Session changed. -/
theorem modifySession_live? {s : State} {id : Nat} {l : Live} (f : Session → Session) (hl : s.live? id = some l) :
    (s.modifySession id f).live? id = some { l with session := l.session.map f } := by
  obtain ⟨d, hd, hl⟩ := device_of_live? hl
  have hi : id < s.devices.length := (List.getElem?_eq_some_iff.mp hd).1
  simp [State.live?, State.modifyDevice, modify_eq_set hd, mapLive_of_life hl, hi, Device.live?, Device.withLive]

/-! ## The chain of each procedure -/

theorem resetDuty_effects {s t : State} {id : Nat} (h : resetDuty id s = .ok t) : Effects s t := by
  obtain ⟨s1, h1, h⟩ := bind_ok.mp h
  obtain ⟨s2, h2, h⟩ := bind_ok.mp h
  exact ((writeRegister_effects h1).trans (writeRegister_effects h2)).trans (writeRegister_effects h)

theorem resetDuty_live? {s t : State} {id : Nat} (h : resetDuty id s = .ok t) (j : Nat) : t.live? j = s.live? j := by
  obtain ⟨s1, h1, h⟩ := bind_ok.mp h
  obtain ⟨s2, h2, h⟩ := bind_ok.mp h
  rw [writeRegister_live? h, writeRegister_live? h2, writeRegister_live? h1]

theorem applyColor_effects {s t : State} {id : Nat} {l : Live} {rgb : RgbState} {col : ColorValue}
    (hl : s.live? id = some l) (hst : l.st = .rgb rgb) (h : applyColor id rgb col s = .ok t) : Effects s t := by
  obtain ⟨dr, -, h⟩ := bind_ok.mp h
  obtain ⟨dg, -, h⟩ := bind_ok.mp h
  obtain ⟨db, -, h⟩ := bind_ok.mp h
  obtain ⟨s1, h1, h⟩ := bind_ok.mp h
  obtain ⟨s2, h2, h⟩ := bind_ok.mp h
  obtain ⟨s3, h3, h⟩ := bind_ok.mp h
  obtain ⟨s4, h4, h⟩ := bind_ok.mp h
  cases h
  have hl4 : s4.live? id = some l := by
    rw [writeRegister_live? h4, writeRegister_live? h3, writeRegister_live? h2, writeRegister_live? h1, hl]
  refine ((((writeRegister_effects h1).trans (writeRegister_effects h2)).trans (writeRegister_effects h3)).trans
    (writeRegister_effects h4)).trans (setSt_effects hl4 (by rw [hst]; rfl) ?_)
  intro r hr h0
  obtain rfl : { rgb with color := col } = r := by simpa [DeviceConfig.rgb?] using hr
  exact ⟨rgb, by simp [hst, DeviceConfig.rgb?], h0⟩

theorem writePatterns_effects {id : Nat} {led : LedState} {data : List Byte} {s t : State}
    (h : writePatterns id led data s = .ok t) : Effects s t := by
  induction data generalizing s with
  | nil => cases h; exact .refl
  | cons b rest ih =>
    unfold writePatterns at h
    split at h
    · exact ih h
    · obtain ⟨u, hu, h⟩ := bind_ok.mp h
      exact (writeRegister_effects hu).trans (ih h)

theorem writePatterns_live? {id : Nat} {led : LedState} {data : List Byte} {s t : State}
    (h : writePatterns id led data s = .ok t) (j : Nat) : t.live? j = s.live? j := by
  induction data generalizing s with
  | nil => cases h; rfl
  | cons b rest ih =>
    unfold writePatterns at h
    split at h
    · exact ih h
    · obtain ⟨u, hu, h⟩ := bind_ok.mp h
      rw [ih h, writeRegister_live? hu]

theorem setPos_effects {s : State} {id : Nat} {l : Live} {ses : Session} (n : Nat) (hl : s.live? id = some l)
    (hs : l.session = some ses) : Effects s (setPos id n s) :=
  modifySession_effects hl hs rfl rfl (fun h => h) (le_max_right _ _)

theorem finishSeek_effects {s t : State} {c : Ctx} {l : Live} {ses : Session} {pos : Nat} {offset : Int} {wh : Whence}
    (hl : s.live? c.inst = some l) (hs : l.session = some ses) (h : finishSeek c pos offset wh s = .ok t) :
    Effects s t := by
  unfold finishSeek at h
  split at h
  · exact raises_effects h
  · exact (setPos_effects _ hl hs).trans (returns_effects h)

theorem finishRead_effects {s t : State} {c : Ctx} {l : Live} {ses : Session} {offset cap : Nat} {buf : List Byte}
    (hl : s.live? c.inst = some l) (hs : l.session = some ses) (hb : buf.length ≤ max 15 ses.rdBuf.length)
    (h : finishRead c offset cap buf s = .ok t) : Effects s t :=
  (modifySession_effects hl hs rfl rfl id hb).trans (returns_effects h)

theorem acquire_effects {s t : State} {id : Nat} {w : Waiter}
    (hm : ∀ l, s.live? id = some l → ∀ m ∈ w.mode, modeAllowed s.cfg l.st.kind m = true)
    (h : acquire id w s = .ok t) : Effects s t := by
  unfold acquire at h
  split at h
  · cases h
  · rename_i l hl
    have hl := liveOf_ok.mp hl
    obtain ⟨d, hd, hlife⟩ := device_of_live? hl
    split at h
    · rename_i hfree
      cases h
      refine ((Effect.grant hd hlife hfree (hm l hl)).chain).trans ?_
      have : Sys2Proof.Machine.grant id w s = State.reply { s with
          nextToken := s.nextToken + 1
          devices := s.devices.set id (d.withLive { l with
            holder := some s.nextToken, session := w.mode.map (newSession s.cfg s.nextToken) }) }
          (.caller w.caller) (grantRet s.nextToken w.mode) := by
        simp [Sys2Proof.Machine.grant, State.modifyDevice, modify_eq_set hd, mapLive_of_life hlife]
      rw [this]; exact (Effect.reply _ _).chain
    · rename_i hheld
      split at h
      · cases h
      · rename_i hb
        cases h
        have : Sys2Proof.Machine.block id w s =
            { s with devices := s.devices.set id { d with blocked := d.blocked ++ [w] } } := by
          simp [Sys2Proof.Machine.block, State.modifyDevice, modify_eq_set hd]
        rw [this]
        exact (Effect.block hd hlife hheld (hm l hl) (by simpa using hb)).chain

/-- The callers blocked on a device that is there. -/
theorem waiters_of_device {s : State} {id : Nat} {d : Device} (hd : s.devices[id]? = some d) :
    s.waiters id = d.blocked := by
  simp [State.waiters, hd]

/-- What a release does: the guard freed, or handed to the caller the environment draws. -/
theorem release_of_holds {s : State} {c : Ctx} {d : Device} {l : Live} (h : Holds s c d l) :
    release c s = .ok (match d.blocked[grantIndex s d.blocked.length]? with
      | none => s.after c.inst (d.withLive { l with holder := none, session := none }) s.hw (.caller c.caller) .ok
      | some w => { s with
          nextToken := s.nextToken + 1
          devices := s.devices.set c.inst { d with
            life := .attached { l with
              holder := some s.nextToken, session := w.mode.map (newSession s.cfg s.nextToken) }
            blocked := d.blocked.eraseIdx (grantIndex s d.blocked.length) }
          replies := s.replies ++ [⟨.caller c.caller, .ok⟩, ⟨.caller w.caller, grantRet s.nextToken w.mode⟩] }) := by
  obtain ⟨hd, hlife, hh⟩ := h
  have hi : c.inst < s.devices.length := (List.getElem?_eq_some_iff.mp hd).1
  have h1 : (freeGuard c.inst s).reply (.caller c.caller) .ok =
      s.after c.inst (d.withLive { l with holder := none, session := none }) s.hw (.caller c.caller) .ok := by
    simp [State.after, State.reply, State.modifyDevice, modify_eq_set hd, mapLive_of_life hlife]
  simp only [release, liveOf_ok.mpr (live?_of_device hd hlife), hh, if_true, h1]
  congr 1
  generalize hu : s.after c.inst (d.withLive { l with holder := none, session := none }) s.hw (.caller c.caller) .ok = u
  have hdu : u.devices[c.inst]? = some (d.withLive { l with holder := none, session := none }) := by
    subst hu; simp [State.after, hi]
  have hg : grantIndex u d.blocked.length = grantIndex s d.blocked.length := by subst hu; rfl
  rw [grantNext, waiters_of_device hdu]
  show (match d.blocked[grantIndex u d.blocked.length]? with
    | none => u
    | some w => Sys2Proof.Machine.grant c.inst w (u.modifyDevice c.inst fun d' =>
        { d' with blocked := d'.blocked.eraseIdx (grantIndex u d.blocked.length) })) = _
  rw [hg]
  cases d.blocked[grantIndex s d.blocked.length]? with
  | none => rfl
  | some w =>
    have hlu : ({ d with
        life := .attached { l with holder := none, session := none }
        blocked := d.blocked.eraseIdx (grantIndex s d.blocked.length) } : Device).life =
        .attached { l with holder := none, session := none } := rfl
    subst hu
    simp [Sys2Proof.Machine.grant, State.after, State.reply, State.modifyDevice,
      modify_eq_set (get_set_self hd _), Device.mapLive, Device.withLive]

theorem release_effects {s t : State} {c : Ctx} (h : release c s = .ok t) : Effects s t := by
  have h0 := h
  unfold release at h
  split at h
  · cases h
  · rename_i l hl
    obtain ⟨d, hd, hlife⟩ := device_of_live? (liveOf_ok.mp hl)
    split at h
    · rename_i hh
      rw [release_of_holds ⟨hd, hlife, hh⟩] at h0
      cases h0
      split
      · rename_i hnone
        have hb : d.blocked = [] := by
          by_contra hne
          have hpos : 0 < d.blocked.length := List.length_pos_iff.mpr hne
          have : grantIndex s d.blocked.length < d.blocked.length := Nat.mod_lt _ hpos
          rw [List.getElem?_eq_none_iff] at hnone
          omega
        exact ((Effect.free hd hlife hb).chain).trans (Effect.reply _ _).chain
      · rename_i w hw
        refine ((Effect.handOver hd hlife hw).chain).trans ?_
        have := (Effect.reply (s := { s with
          nextToken := s.nextToken + 1
          devices := s.devices.set c.inst { d with
            life := .attached { l with
              holder := some s.nextToken, session := w.mode.map (newSession s.cfg s.nextToken) }
            blocked := d.blocked.eraseIdx (grantIndex s d.blocked.length) } }) (.caller c.caller) .ok).chain.trans
          (Effect.reply (.caller w.caller) (grantRet s.nextToken w.mode)).chain
        simpa [State.reply] using this
    · cases h

theorem endLifetime_effects {s t : State} {id : Nat} (h : endLifetime id s = .ok t) : Effects s t := by
  unfold endLifetime at h
  split at h
  · cases h
  · rename_i l hl
    have hl := liveOf_ok.mp hl
    obtain ⟨u, hu, h⟩ := bind_ok.mp h
    cases h
    have hul : Effects s u ∧ u.live? id = some l := by
      unfold driveSafe at hu
      split at hu
      · exact ⟨resetDuty_effects hu, by rw [resetDuty_live? hu, hl]⟩
      · exact ⟨writeRegister_effects hu, by rw [writeRegister_live? hu, hl]⟩
      · cases hu; exact ⟨.refl, hl⟩
    obtain ⟨d, hd, hlife⟩ := device_of_live? hul.2
    have hk : Sys2Proof.Machine.kill id l.st.kind u =
        { u with devices := u.devices.set id { d with life := .dead l.st.kind } } := by
      simp [Sys2Proof.Machine.kill, State.modifyDevice, modify_eq_set hd]
    refine hul.1.trans (Relation.ReflTransGen.tail (b := Sys2Proof.Machine.kill id l.st.kind u) ?_ (Effect.reply _ _))
    rw [hk]; exact (Effect.kill hd hlife).chain

theorem attach_effects {s t : State} {k : Kind} {base size : Nat} (h : attach k base size s = .ok t) :
    Effects s t := by
  unfold Sys2Proof.Machine.attach at h
  split at h
  · rename_i hc
    split at h
    · cases h; exact (Effect.reply _ _).chain
    · cases h; exact (Effect.reply _ _).chain
    · split at h <;> cases h
      · exact (Effect.reply _ _).chain
      · rename_i ho
        exact ((Effect.attach hc (by simpa using ho)).chain).trans (Effect.reply _ _).chain
  · cases h

theorem openStream_effects {s t : State} {k : Kind} {w : Site} {m : Mode} (h : openStream k w m s = .ok t) :
    Effects s t := by
  unfold openStream at h
  split at h
  · cases h
  · rename_i l hl
    split at h
    · cases h
    · rename_i hk
      split at h
      · rename_i hm
        refine acquire_effects ?_ h
        intro l' hl' m' hm'
        obtain rfl : l = l' := Option.some.inj ((liveOf_ok.mp hl).symm.trans hl')
        obtain rfl : m = m' := by simpa using hm'
        rw [not_not.mp hk]; exact hm
      · exact raises_effects h

theorem closeStream_effects {s t : State} {k : Kind} {c : Ctx} (h : closeStream k c s = .ok t) : Effects s t := by
  unfold closeStream at h
  split at h
  · cases h
  · split at h
    · cases h
    · exact release_effects h

theorem readMasked_effects {s t : State} {id : Nat} {sw : SwState} {v : Byte} (h : readMasked id sw s = .ok (v, t)) :
    Effects s t ∧ ∀ j, t.live? j = s.live? j := by
  unfold readMasked at h
  split at h
  · cases h
  · rename_i v' s' hr
    cases h
    refine ⟨readRegister_effects hr, fun j => ?_⟩
    obtain ⟨d, l, hd, -, -, -, rfl⟩ := readRegister_ok hr
    simp only [State.live?]
    by_cases hj : id = j
    · subst hj; simp only [get_set_self hd, hd, Option.bind_some, withEvents_live?]
    · simp [hj]

/-! ## The texts fit the buffers -/

theorem hexText_length (v : Byte) : 1 ≤ (hexText v).length ∧ (hexText v).length ≤ 2 := by
  unfold hexText; split <;> simp

theorem colorText_length_le (c : ColorValue) : (colorText c).length ≤ 15 := by
  have h1 := (hexText_length c.r).2; have h2 := (hexText_length c.g).2; have h3 := (hexText_length c.b).2
  simp only [colorText, List.length_append, List.length_cons, List.length_nil]; omega

theorem switchText_length_le (v : Byte) : (switchText v).length ≤ 4 := by
  unfold switchText decText; split
  · simp
  · split <;> simp

/-- A write that fits leaves the buffer's length. -/
theorem overlay_length {buf data : List Byte} {offset : Nat} (h : offset + data.length ≤ buf.length) :
    (overlay buf offset data).length = buf.length := by
  simp [overlay]; omega

/-- The part of an RGB stream write that follows the fit check. -/
theorem rgbWriteText_effects {s t : State} {c : Ctx} {d : Device} {l : Live} {ses : Session} {rgb : RgbState}
    {offset : Nat} {data : List Byte} (hs : InSession s c d l ses) (hst : l.st = .rgb rgb)
    (hfit : offset + data.length ≤ s.cfg.wrBufSize)
    (h : rgbWriteText c rgb (overlay ses.wrBuf offset data) offset data.length s = .ok t) : Effects s t := by
  have hl := live?_of_device hs.1.1 hs.1.2.1
  have hstore : Effects s (storeWrite c.inst (overlay ses.wrBuf offset data) (offset + data.length) s) :=
    modifySession_effects hl hs.2.1 rfl rfl
      (fun hb => by show (overlay ses.wrBuf offset data).length = _; rw [overlay_length (by omega), hb])
      (le_max_right _ _)
  unfold rgbWriteText at h
  split at h
  · exact raises_effects h
  · split at h
    · split at h
      · exact raises_effects h
      · refine bind_returns_effects h fun u hu => hstore.trans ?_
        exact applyColor_effects (l := { l with session := l.session.map _ }) (modifySession_live? _ hl) hst hu
    · exact hstore.trans (returns_effects h)

/-- Every next state of an operation is reached by a chain of effects. -/
theorem exec_effects {i : Instr} {s t : State} (h : exec i s = .next t) : Effects s t := by
  have live {c : Ctx} {d : Device} {l : Live} (hh : Holds s c d l) : s.live? c.inst = some l :=
    live?_of_device hh.1 hh.2.1
  have rgbOf {x : DeviceConfig} {y : RgbState} (hx : DeviceConfig.rgb? x = some y) : x = .rgb y := by
    cases x <;> simp_all [DeviceConfig.rgb?]
  cases i with
  | ledGetInit | ledGetMask | rgbGetValue | rgbGetPeriod | swGetMask =>
    exact command_effects (finish_next.mp h) fun _ _ _ _ _ hk => copyOut_effects hk
  | ledSetInit | ledSetMask =>
    refine command_effects (finish_next.mp h) fun d l led hh hst hk => copyIn_effects hk fun hk => ?_
    have hst : l.st = .led led := by revert hst; cases l.st <;> simp [DeviceConfig.led?]
    exact (setSt_effects (live hh) (by rw [hst]; rfl) (by simp [DeviceConfig.rgb?])).trans (returns_effects hk)
  | ledReset =>
    exact command_effects (finish_next.mp h) fun _ _ _ _ _ hk =>
      bind_returns_effects hk fun _ hu => writeRegister_effects hu
  | rgbSetValue =>
    refine command_effects (finish_next.mp h) fun d l rgb hh hst hk => copyIn_effects hk fun hk => ?_
    exact bind_returns_effects hk fun _ hu => applyColor_effects (live hh) (rgbOf hst) hu
  | rgbSetPeriod c priv p =>
    refine command_effects (finish_next.mp h) fun d l rgb hh hst hk => copyIn_effects hk fun hk => ?_
    split at hk
    · unfold setPeriodZero at hk
      split at hk
      · cases hk
      · exact raises_effects hk
    · rename_i hp
      refine (setSt_effects (live hh) (by rw [rgbOf hst]; rfl) ?_).trans (returns_effects hk)
      intro r hr h0
      obtain rfl : { rgb with period := p } = r := by simpa [DeviceConfig.rgb?] using hr
      exact absurd h0 hp
  | swSetMask =>
    refine command_effects (finish_next.mp h) fun d l sw hh hst hk => copyIn_effects hk fun hk => ?_
    have hst : l.st = .sw sw := by revert hst; cases l.st <;> simp [DeviceConfig.sw?]
    exact (setSt_effects (live hh) (by rw [hst]; rfl) (by simp [DeviceConfig.rgb?])).trans (returns_effects hk)
  | swGetValue =>
    refine command_effects (finish_next.mp h) fun d l sw hh hst hk => ?_
    split at hk
    · cases hk
    · rename_i hr; exact (readMasked_effects hr).1.trans (copyOut_effects hk)
  | rfRead =>
    have h := finish_next.mp h
    split at h
    · cases h
    · rename_i hr; exact (readRegister_effects hr).trans (returns_effects h)
  | rfWrite => exact bind_returns_effects (finish_next.mp h) fun _ hu => writeRegister_effects hu
  | rfWriteMasked8 => exact bind_returns_effects (finish_next.mp h) fun _ hu => writeRegister_effects hu
  | rfBarrier =>
    have h := finish_next.mp h
    split at h
    · cases h
    · exact ((Effect.barrier _).chain).trans (returns_effects h)
  | codecDecode | codecEncode => exact returns_effects (finish_next.mp h)
  | codecScaleDuty =>
    obtain ⟨_, -, h⟩ := bind_ok.mp (finish_next.mp h)
    exact returns_effects h
  | guardAcquire => exact acquire_effects (by simp) (finish_next.mp h)
  | guardRelease => exact release_effects (finish_next.mp h)
  | ledOpen | rgbOpen | swOpen => exact openStream_effects (finish_next.mp h)
  | ledClose | rgbClose | swClose => exact closeStream_effects (finish_next.mp h)
  | ledStreamRead | swStreamWrite => exact stream_effects (finish_next.mp h) fun _ _ _ _ _ _ hk => raises_effects hk
  | ledStreamWrite c offset data =>
    refine stream_effects (finish_next.mp h) fun d l ses led hh hst hk => ?_
    refine copyIn_effects (requireMode_ok.mp hk).2 fun hk => ?_
    obtain ⟨u, hu, hk⟩ := bind_ok.mp hk
    have hl : u.live? c.inst = some l := by rw [writePatterns_live? hu, live hh.1]
    exact ((writePatterns_effects hu).trans (setPos_effects _ hl hh.2.1)).trans (returns_effects hk)
  | ledSeek =>
    refine stream_effects (finish_next.mp h) fun d l ses led hh hst hk => ?_
    obtain ⟨u, hu, hk⟩ := bind_ok.mp hk
    exact (writeRegister_effects hu).trans
      (finishSeek_effects (by rw [writeRegister_live? hu, live hh.1]) hh.2.1 hk)
  | rgbStreamRead c offset cap =>
    refine stream_effects (finish_next.mp h) fun d l ses rgb hh hst hk => ?_
    refine copyIn_effects (requireMode_ok.mp hk).2 fun hk => finishRead_effects (live hh.1) hh.2.1 ?_ hk
    split
    · exact le_max_of_le_left (colorText_length_le _)
    · exact le_max_right _ _
  | rgbStreamWrite =>
    refine stream_effects (finish_next.mp h) fun d l ses rgb hh hst hk => ?_
    refine copyIn_effects (requireMode_ok.mp hk).2 fun hk => ?_
    split at hk
    · exact raises_effects hk
    · exact rgbWriteText_effects hh (rgbOf hst) (by omega) hk
  | rgbSeek =>
    refine stream_effects (finish_next.mp h) fun d l ses rgb hh hst hk => ?_
    obtain ⟨u, hu, hk⟩ := bind_ok.mp hk
    exact (resetDuty_effects hu).trans (finishSeek_effects (by rw [resetDuty_live? hu, live hh.1]) hh.2.1 hk)
  | swStreamRead =>
    refine stream_effects (finish_next.mp h) fun d l ses sw hh hst hk => ?_
    refine copyIn_effects (requireMode_ok.mp hk).2 fun hk => ?_
    split at hk
    · split at hk
      · cases hk
      · rename_i hr
        refine (readMasked_effects hr).1.trans (finishRead_effects ?_ hh.2.1 ?_ hk)
        · rw [(readMasked_effects hr).2, live hh.1]
        · exact le_max_of_le_left (le_trans (switchText_length_le _) (by omega))
    · exact finishRead_effects (live hh.1) hh.2.1 (le_max_right _ _) hk
  | swSeek =>
    exact stream_effects (finish_next.mp h) fun d l ses sw hh hst hk => finishSeek_effects (live hh.1) hh.2.1 hk
  | hostAttach => exact attach_effects (finish_next.mp h)
  | hostDetach | hostShutdown => exact endLifetime_effects (finish_next.mp h)
  | hostInterrupt k =>
    have h : (if s.isBlocked k then (Sys2Proof.Machine.unblock k s).raise (.caller k) .interrupted else s).reply .host .ok
        = t := by simpa [exec, execHostInterrupt] using h
    subst h
    split
    · exact (((Effect.unblock k).chain).trans (Effect.reply _ _).chain).trans (Effect.reply _ _).chain
    · exact (Effect.reply _ _).chain

/-- A step leaves the state, or is a chain of effects on the state with its first call taken. -/
theorem step_effects {s t : State} (h : step s = .next t) :
    t = s ∨ ∃ r rest, s.pending = r :: rest ∧ Effects { s with pending := rest, env := r.env } t := by
  unfold step fetch at h
  cases hp : s.pending with
  | nil =>
    simp only [hp, Host.Outcome.next.injEq] at h
    exact .inl h.symm
  | cons r rest =>
    simp only [hp] at h
    refine .inr ⟨r, rest, rfl, ?_⟩
    split at h
    · exact exec_effects h
    · rename_i e he
      cases e with
      | unknownCommand =>
        have h := finish_next.mp h
        split at h
        · cases h
        · exact raises_effects h
      | unknownSelector => cases h
      | valueTooWide => cases h

/-- An invariant that each effect keeps, and that the calls and draws do not touch, is kept by every step. -/
theorem step_keeps {Inv : State → Prop} (hcall : ∀ s p e, Inv s → Inv { s with pending := p, env := e })
    (heff : ∀ s t, Effect s t → Inv s → Inv t) {s t : State} (h : step s = .next t) (hs : Inv s) : Inv t := by
  rcases step_effects h with rfl | ⟨r, rest, -, hc⟩
  · exact hs
  · have h0 := hcall s rest r.env hs
    clear h hs
    induction hc with
    | refl => exact h0
    | tail _ he ih => exact heff _ _ he ih

end Sys2Proof.Machine
end

