-- ==== Sys2Proof/Laws/PerInstr.lean ====
section
/-! SUPPORT. A statement about every operation as syntax, one lemma per constructor: the code the operation has is a row
of the opcode table that the decoder reads as that row, the form of the call is the one the code's magic or group has,
and the encoder gives that form and code (spec/30_encoding.md R82, R83, R94). -/

namespace Sys2Proof.Laws.TableWord

open Sys2Proof

/-- The operation's code is in the table, and decodes, with operands of zeros, to an operation of that code. -/
def Statement (i : Instr) : Prop :=
  (decodeTableWord 16 i.code.toNat).map Instr.code = some i.code ∧
  (encode i).code = i.code ∧ (encode i).form = formOfCode i.code

/-- `LED.GetInit`, 0x4C00. -/
theorem ledGetInit (c : Ctx) (priv : Bool) : Statement (.ledGetInit c priv) :=
  ⟨show (decodeTableWord 16 0x4C00).map Instr.code = some 0x4C00 by decide, rfl, rfl⟩

/-- `LED.SetInit`, 0x4C01. -/
theorem ledSetInit (c : Ctx) (priv : Bool) (v : Byte) : Statement (.ledSetInit c priv v) :=
  ⟨show (decodeTableWord 16 0x4C01).map Instr.code = some 0x4C01 by decide, rfl, rfl⟩

/-- `LED.GetMask`, 0x4C02. -/
theorem ledGetMask (c : Ctx) (priv : Bool) : Statement (.ledGetMask c priv) :=
  ⟨show (decodeTableWord 16 0x4C02).map Instr.code = some 0x4C02 by decide, rfl, rfl⟩

/-- `LED.SetMask`, 0x4C03. -/
theorem ledSetMask (c : Ctx) (priv : Bool) (m : Byte) : Statement (.ledSetMask c priv m) :=
  ⟨show (decodeTableWord 16 0x4C03).map Instr.code = some 0x4C03 by decide, rfl, rfl⟩

/-- `LED.Reset`, 0x4C04. -/
theorem ledReset (c : Ctx) (priv : Bool) : Statement (.ledReset c priv) :=
  ⟨show (decodeTableWord 16 0x4C04).map Instr.code = some 0x4C04 by decide, rfl, rfl⟩

/-- `RGB.GetValue`, 0x5200. -/
theorem rgbGetValue (c : Ctx) (priv : Bool) : Statement (.rgbGetValue c priv) :=
  ⟨show (decodeTableWord 16 0x5200).map Instr.code = some 0x5200 by decide, rfl, rfl⟩

/-- `RGB.SetValue`, 0x5201. -/
theorem rgbSetValue (c : Ctx) (priv : Bool) (packed : Word) : Statement (.rgbSetValue c priv packed) :=
  ⟨show (decodeTableWord 16 0x5201).map Instr.code = some 0x5201 by decide, rfl, rfl⟩

/-- `RGB.GetPeriod`, 0x5202. -/
theorem rgbGetPeriod (c : Ctx) (priv : Bool) : Statement (.rgbGetPeriod c priv) :=
  ⟨show (decodeTableWord 16 0x5202).map Instr.code = some 0x5202 by decide, rfl, rfl⟩

/-- `RGB.SetPeriod`, 0x5203. -/
theorem rgbSetPeriod (c : Ctx) (priv : Bool) (p : Word) : Statement (.rgbSetPeriod c priv p) :=
  ⟨show (decodeTableWord 16 0x5203).map Instr.code = some 0x5203 by decide, rfl, rfl⟩

/-- `SW.GetMask`, 0x5300. -/
theorem swGetMask (c : Ctx) (priv : Bool) : Statement (.swGetMask c priv) :=
  ⟨show (decodeTableWord 16 0x5300).map Instr.code = some 0x5300 by decide, rfl, rfl⟩

/-- `SW.SetMask`, 0x5301. -/
theorem swSetMask (c : Ctx) (priv : Bool) (m : Byte) : Statement (.swSetMask c priv m) :=
  ⟨show (decodeTableWord 16 0x5301).map Instr.code = some 0x5301 by decide, rfl, rfl⟩

/-- `SW.GetValue`, 0x5302. -/
theorem swGetValue (c : Ctx) (priv : Bool) : Statement (.swGetValue c priv) :=
  ⟨show (decodeTableWord 16 0x5302).map Instr.code = some 0x5302 by decide, rfl, rfl⟩

/-- `RF.Read`, 0x4600. -/
theorem rfRead (w : Site) (offset : Nat) (width : Width) : Statement (.rfRead w offset width) :=
  ⟨show (decodeTableWord 16 0x4600).map Instr.code = some 0x4600 by decide, rfl, rfl⟩

/-- `RF.Write`, 0x4601. -/
theorem rfWrite (w : Site) (offset : Nat) (width : Width) (value : Word) : Statement (.rfWrite w offset width value) :=
  ⟨show (decodeTableWord 16 0x4601).map Instr.code = some 0x4601 by decide, rfl, rfl⟩

/-- `RF.WriteMasked8`, 0x4602. -/
theorem rfWriteMasked8 (w : Site) (offset : Nat) (value : Byte) (mask : Byte) : Statement (.rfWriteMasked8 w offset value mask) :=
  ⟨show (decodeTableWord 16 0x4602).map Instr.code = some 0x4602 by decide, rfl, rfl⟩

/-- `RF.Barrier`, 0x4603. -/
theorem rfBarrier (w : Site) : Statement (.rfBarrier w) :=
  ⟨show (decodeTableWord 16 0x4603).map Instr.code = some 0x4603 by decide, rfl, rfl⟩

/-- `CODEC.Decode`, 0x4300. -/
theorem codecDecode (caller : Nat) (packed : Word) : Statement (.codecDecode caller packed) :=
  ⟨show (decodeTableWord 16 0x4300).map Instr.code = some 0x4300 by decide, rfl, rfl⟩

/-- `CODEC.Encode`, 0x4301. -/
theorem codecEncode (caller : Nat) (color : ColorValue) : Statement (.codecEncode caller color) :=
  ⟨show (decodeTableWord 16 0x4301).map Instr.code = some 0x4301 by decide, rfl, rfl⟩

/-- `CODEC.ScaleDuty`, 0x4302. -/
theorem codecScaleDuty (caller : Nat) (period : Word) (channelValue : Byte) (maxDivisor : Word) : Statement (.codecScaleDuty caller period channelValue maxDivisor) :=
  ⟨show (decodeTableWord 16 0x4302).map Instr.code = some 0x4302 by decide, rfl, rfl⟩

/-- `GUARD.Acquire`, 0x4700. -/
theorem guardAcquire (w : Site) : Statement (.guardAcquire w) :=
  ⟨show (decodeTableWord 16 0x4700).map Instr.code = some 0x4700 by decide, rfl, rfl⟩

/-- `GUARD.Release`, 0x4701. -/
theorem guardRelease (c : Ctx) : Statement (.guardRelease c) :=
  ⟨show (decodeTableWord 16 0x4701).map Instr.code = some 0x4701 by decide, rfl, rfl⟩

/-- `LED.Open`, 0x6C00. -/
theorem ledOpen (w : Site) (mode : Mode) : Statement (.ledOpen w mode) :=
  ⟨show (decodeTableWord 16 0x6C00).map Instr.code = some 0x6C00 by decide, rfl, rfl⟩

/-- `LED.Close`, 0x6C01. -/
theorem ledClose (c : Ctx) : Statement (.ledClose c) :=
  ⟨show (decodeTableWord 16 0x6C01).map Instr.code = some 0x6C01 by decide, rfl, rfl⟩

/-- `LED.StreamRead`, 0x6C02. -/
theorem ledStreamRead (c : Ctx) (offset : Nat) (cap : Nat) : Statement (.ledStreamRead c offset cap) :=
  ⟨show (decodeTableWord 16 0x6C02).map Instr.code = some 0x6C02 by decide, rfl, rfl⟩

/-- `LED.StreamWrite`, 0x6C03. -/
theorem ledStreamWrite (c : Ctx) (offset : Nat) (data : List Byte) : Statement (.ledStreamWrite c offset data) :=
  ⟨show (decodeTableWord 16 0x6C03).map Instr.code = some 0x6C03 by decide, rfl, rfl⟩

/-- `LED.Seek`, 0x6C04. -/
theorem ledSeek (c : Ctx) (offset : Int) (whence : Whence) : Statement (.ledSeek c offset whence) :=
  ⟨show (decodeTableWord 16 0x6C04).map Instr.code = some 0x6C04 by decide, rfl, rfl⟩

/-- `RGB.Open`, 0x7200. -/
theorem rgbOpen (w : Site) (mode : Mode) : Statement (.rgbOpen w mode) :=
  ⟨show (decodeTableWord 16 0x7200).map Instr.code = some 0x7200 by decide, rfl, rfl⟩

/-- `RGB.Close`, 0x7201. -/
theorem rgbClose (c : Ctx) : Statement (.rgbClose c) :=
  ⟨show (decodeTableWord 16 0x7201).map Instr.code = some 0x7201 by decide, rfl, rfl⟩

/-- `RGB.StreamRead`, 0x7202. -/
theorem rgbStreamRead (c : Ctx) (offset : Nat) (cap : Nat) : Statement (.rgbStreamRead c offset cap) :=
  ⟨show (decodeTableWord 16 0x7202).map Instr.code = some 0x7202 by decide, rfl, rfl⟩

/-- `RGB.StreamWrite`, 0x7203. -/
theorem rgbStreamWrite (c : Ctx) (offset : Nat) (data : List Byte) : Statement (.rgbStreamWrite c offset data) :=
  ⟨show (decodeTableWord 16 0x7203).map Instr.code = some 0x7203 by decide, rfl, rfl⟩

/-- `RGB.Seek`, 0x7204. -/
theorem rgbSeek (c : Ctx) (offset : Int) (whence : Whence) : Statement (.rgbSeek c offset whence) :=
  ⟨show (decodeTableWord 16 0x7204).map Instr.code = some 0x7204 by decide, rfl, rfl⟩

/-- `SW.Open`, 0x7300. -/
theorem swOpen (w : Site) (mode : Mode) : Statement (.swOpen w mode) :=
  ⟨show (decodeTableWord 16 0x7300).map Instr.code = some 0x7300 by decide, rfl, rfl⟩

/-- `SW.Close`, 0x7301. -/
theorem swClose (c : Ctx) : Statement (.swClose c) :=
  ⟨show (decodeTableWord 16 0x7301).map Instr.code = some 0x7301 by decide, rfl, rfl⟩

/-- `SW.StreamRead`, 0x7302. -/
theorem swStreamRead (c : Ctx) (offset : Nat) (cap : Nat) : Statement (.swStreamRead c offset cap) :=
  ⟨show (decodeTableWord 16 0x7302).map Instr.code = some 0x7302 by decide, rfl, rfl⟩

/-- `SW.StreamWrite`, 0x7303. -/
theorem swStreamWrite (c : Ctx) (offset : Nat) (data : List Byte) : Statement (.swStreamWrite c offset data) :=
  ⟨show (decodeTableWord 16 0x7303).map Instr.code = some 0x7303 by decide, rfl, rfl⟩

/-- `SW.Seek`, 0x7304. -/
theorem swSeek (c : Ctx) (offset : Int) (whence : Whence) : Statement (.swSeek c offset whence) :=
  ⟨show (decodeTableWord 16 0x7304).map Instr.code = some 0x7304 by decide, rfl, rfl⟩

/-- `HOST.Attach`, 0x4100. -/
theorem hostAttach (kind : Kind) (base : Nat) (size : Nat) : Statement (.hostAttach kind base size) :=
  ⟨show (decodeTableWord 16 0x4100).map Instr.code = some 0x4100 by decide, rfl, rfl⟩

/-- `HOST.Detach`, 0x4101. -/
theorem hostDetach (inst : Nat) : Statement (.hostDetach inst) :=
  ⟨show (decodeTableWord 16 0x4101).map Instr.code = some 0x4101 by decide, rfl, rfl⟩

/-- `HOST.Shutdown`, 0x4102. -/
theorem hostShutdown (inst : Nat) : Statement (.hostShutdown inst) :=
  ⟨show (decodeTableWord 16 0x4102).map Instr.code = some 0x4102 by decide, rfl, rfl⟩

/-- `HOST.Interrupt`, 0x4103. -/
theorem hostInterrupt (caller : Nat) : Statement (.hostInterrupt caller) :=
  ⟨show (decodeTableWord 16 0x4103).map Instr.code = some 0x4103 by decide, rfl, rfl⟩

end Sys2Proof.Laws.TableWord
end

