-- ==== Sys2Proof/Laws/Procedures.lean ====
section
/-! SUPPORT. The result in full of each procedure that makes several register accesses, and of the changes of one live
device. -/

namespace Sys2Proof.Machine

open Sys2Proof

/-- A chain of writes to one device: the registers, and the device's events, after writing `ws` in order. -/
def writeAll (base : Nat) (ws : List (Nat × RegVal)) (m : Memory) : Memory :=
  ws.foldl (fun m w => Memory.write m (base + w.1) w.2) m

/-- The events of a chain of writes (R58). -/
def eventsOf (ws : List (Nat × RegVal)) : List BusEvent := ws.flatMap fun w => writeEvents w.1 w.2

/-- The state after a chain of writes to one device. -/
def State.wrote (s : State) (id : Nat) (d : Device) (ws : List (Nat × RegVal)) : State :=
  { s with hw := writeAll d.base ws s.hw, devices := s.devices.set id (d.withEvents (eventsOf ws)) }

@[simp] theorem withEvents_withEvents (d : Device) (a b : List BusEvent) :
    (d.withEvents a).withEvents b = d.withEvents (a ++ b) := by
  simp [Device.withEvents]

theorem withEvents_withLive (d : Device) (es : List BusEvent) (l : Live) :
    (d.withEvents es).withLive l = (d.withLive l).withEvents es := rfl

@[simp] theorem withLive_withLive (d : Device) (l m : Live) : (d.withLive l).withLive m = d.withLive m := rfl

@[simp] theorem wrote_cfg (s : State) (id : Nat) (d : Device) (ws : List (Nat × RegVal)) :
    (s.wrote id d ws).cfg = s.cfg := rfl

/-- No write changes nothing. -/
theorem wrote_nil {s : State} {id : Nat} {d : Device} (hd : s.devices[id]? = some d) : s.wrote id d [] = s := by
  have hi : id < s.devices.length := (List.getElem?_eq_some_iff.mp hd).1
  have h2 : s.devices[id] = d := (List.getElem?_eq_some_iff.mp hd).2
  have : d.withEvents (eventsOf []) = d := by simp [Device.withEvents, eventsOf]
  simp only [State.wrote, writeAll, List.foldl_nil, this]
  rw [← h2, List.set_getElem_self]

/-- One more write of a declared register. -/
theorem writeRegister_wrote {s : State} {id offset : Nat} {v : RegVal} {d : Device} {l : Live}
    (ws : List (Nat × RegVal)) (hd : s.devices[id]? = some d) (hl : d.life = .attached l)
    (hdecl : (offset, v.width) ∈ declaredRegs s.cfg l.st.kind) :
    writeRegister id offset v (s.wrote id d ws) = .ok (s.wrote id d (ws ++ [(offset, v)])) := by
  have hi : id < s.devices.length := (List.getElem?_eq_some_iff.mp hd).1
  rw [writeRegister_spec (s := s.wrote id d ws) (d := d.withEvents (eventsOf ws)) (l := l) (by simp [State.wrote, hi])
    hl hdecl]
  simp [State.wrote, writeAll, eventsOf]

/-- `RGB.ResetDuty` in full. -/
theorem resetDuty_spec {s : State} {id : Nat} {d : Device} {l : Live} {rgb : RgbState}
    (hd : s.devices[id]? = some d) (hl : d.life = .attached l) (hst : l.st = .rgb rgb) :
    resetDuty id s = .ok (s.wrote id d
      [(s.cfg.offDutyR, .word 0), (s.cfg.offDutyG, .word 0), (s.cfg.offDutyB, .word 0)]) := by
  have hk : l.st.kind = .rgb := by rw [hst]; rfl
  have w (ws : List (Nat × RegVal)) (o : Nat) (ho : (o, Width.w32) ∈ declaredRegs s.cfg .rgb) :
      writeRegister id o (.word 0) (s.wrote id d ws) = .ok (s.wrote id d (ws ++ [(o, .word 0)])) :=
    writeRegister_wrote ws hd hl (by rw [hk]; exact ho)
  have h0 := w [] s.cfg.offDutyR (by simp [declaredRegs])
  rw [wrote_nil hd] at h0
  simp only [resetDuty, h0, bind, Except.bind, List.nil_append]
  rw [w _ s.cfg.offDutyG (by simp [declaredRegs])]
  simp only [List.cons_append, List.nil_append]
  rw [w _ s.cfg.offDutyB (by simp [declaredRegs])]
  rfl

/-- The duty written for a channel, as the 32-bit value. -/
theorem scaleDuty_of_pos {p d : Word} (c : Byte) (h : d ≠ 0) :
    scaleDuty p c d = .ok (dutyScale p d * c.setWidth 32) := if_neg h

/-- `RGB.ApplyColor` in full, for a divisor above 0. -/
theorem applyColor_spec {s : State} {id : Nat} {d : Device} {l : Live} {rgb : RgbState} (c : ColorValue)
    (hd : s.devices[id]? = some d) (hl : d.life = .attached l) (hst : l.st = .rgb rgb) (hm : s.cfg.maxDivisor ≠ 0) :
    applyColor id rgb c s = .ok ((s.wrote id d
      [(s.cfg.offDutyR, .word (dutyScale rgb.period s.cfg.maxDivisor * c.r.setWidth 32)),
       (s.cfg.offDutyG, .word (dutyScale rgb.period s.cfg.maxDivisor * c.g.setWidth 32)),
       (s.cfg.offDutyB, .word (dutyScale rgb.period s.cfg.maxDivisor * c.b.setWidth 32)),
       (s.cfg.offPeriod, .word rgb.period)]).setSt id (.rgb { rgb with color := c })) := by
  have hk : l.st.kind = .rgb := by rw [hst]; rfl
  have w (ws : List (Nat × RegVal)) (o : Nat) (v : Word) (ho : (o, Width.w32) ∈ declaredRegs s.cfg .rgb) :
      writeRegister id o (.word v) (s.wrote id d ws) = .ok (s.wrote id d (ws ++ [(o, .word v)])) :=
    writeRegister_wrote ws hd hl (by rw [hk]; exact ho)
  have h0 (v : Word) := w [] s.cfg.offDutyR v (by simp [declaredRegs])
  simp only [wrote_nil hd] at h0
  simp only [applyColor, scaleDuty_of_pos _ hm, h0, bind, Except.bind, List.nil_append]
  rw [w _ s.cfg.offDutyG _ (by simp [declaredRegs])]
  simp only [List.cons_append, List.nil_append]
  rw [w _ s.cfg.offDutyB _ (by simp [declaredRegs])]
  simp only [List.cons_append, List.nil_append]
  rw [w _ s.cfg.offPeriod _ (by simp [declaredRegs])]
  rfl

/-- The patterns of an LED write in full. -/
theorem writePatterns_spec {s : State} {id : Nat} {d : Device} {l : Live} {led : LedState} {data : List Byte}
    (hd : s.devices[id]? = some d) (hl : d.life = .attached l) (hst : l.st = .led led)
    (ws : List (Nat × RegVal)) :
    writePatterns id led data (s.wrote id d ws) = .ok (s.wrote id d
      (ws ++ (data.filter fun b => b ≠ 0).map fun b => (s.cfg.offLedData, .byte (maskedByte b led.mask)))) := by
  induction data generalizing ws with
  | nil => simp [writePatterns]
  | cons b rest ih =>
    by_cases hb : b = 0
    · simp only [writePatterns, hb, if_true, ih]; simp
    · have hdecl : (s.cfg.offLedData, (RegVal.byte (maskedByte b led.mask)).width) ∈ declaredRegs s.cfg l.st.kind := by
        rw [hst]; simp [declaredRegs, DeviceConfig.kind, RegVal.width]
      simp only [writePatterns, hb, if_false, writePattern, writeMasked8, wrote_cfg,
        writeRegister_wrote ws hd hl hdecl, Except.bind, ih]
      rw [List.filter_cons_of_pos (by simpa using hb)]
      simp

/-- What a chain of writes leaves in a register that it does not write. -/
theorem writeAll_read_other {base a : Nat} {ws : List (Nat × RegVal)} (m : Memory)
    (h : ∀ w ∈ ws, a ≠ base + w.1) : (writeAll base ws m).read a = m.read a := by
  induction ws generalizing m with
  | nil => rfl
  | cons w rest ih =>
    simp only [List.mem_cons, forall_eq_or_imp] at h
    rw [show writeAll base (w :: rest) m = writeAll base rest (Memory.write m (base + w.1) w.2) from rfl, ih _ h.2,
      memory_read_write_other _ _ h.1]

/-- What a chain of writes leaves in a register whose last write is known. -/
theorem writeAll_read_last {base offset : Nat} {v : RegVal} {ws rest : List (Nat × RegVal)} (m : Memory)
    (h : ∀ w ∈ rest, offset ≠ w.1) : (writeAll base (ws ++ (offset, v) :: rest) m).read (base + offset) = some v := by
  simp only [writeAll, List.foldl_append, List.foldl_cons]
  have := writeAll_read_other (base := base) (a := base + offset) (ws := rest)
    (Memory.write (writeAll base ws m) (base + offset) v) (fun w hw => by have := h w hw; omega)
  simp only [writeAll] at this
  rw [this, memory_read_write_same]

/-- A chain of writes passes through one content for each of them, from the first to the last. -/
theorem contentsAfter_eventsOf (base : Nat) (ws : List (Nat × RegVal)) (m : Memory) :
    PassesThrough base ws (contentsAfter base m (eventsOf ws)) m (writeAll base ws m) := by
  induction ws generalizing m with
  | nil => exact ⟨rfl, rfl⟩
  | cons w rest ih =>
    refine ⟨rfl, Memory.write m (base + w.1) w.2, ⟨memory_read_write_same _ _ _, ?_⟩, ih _⟩
    exact fun b hb => memory_read_write_other _ _ hb

/-- A change of the Peripheral State of a live device, in full. -/
theorem setSt_of_device {s : State} {id : Nat} {d : Device} {l : Live} (hd : s.devices[id]? = some d)
    (hl : d.life = .attached l) (st : DeviceConfig) :
    s.setSt id st = { s with devices := s.devices.set id (d.withLive { l with st }) } := by
  simp [State.modifyDevice, modify_eq_set hd, mapLive_of_life hl]

/-- A change of the Session of a live device, in full. -/
theorem modifySession_of_device {s : State} {id : Nat} {d : Device} {l : Live} (hd : s.devices[id]? = some d)
    (hl : d.life = .attached l) (f : Session → Session) :
    s.modifySession id f =
      { s with devices := s.devices.set id (d.withLive { l with session := l.session.map f }) } := by
  simp [State.modifyDevice, modify_eq_set hd, mapLive_of_life hl]

end Sys2Proof.Machine
end

