-- ==== Sys2Proof/Tests/Slice0.lean ====
section
/-! SUPPORT. Tests: the refusals of WellFormed, the words of the opcode table, single steps with the results of
spec/95_test_vectors.md (S, V and P numbers), and a witness for the hypotheses of each statement. -/

namespace Sys2Proof.Machine

open Sys2Proof

/-! ## WellFormed -/

/-- R111: "a value wider than the register cannot be passed". -/
theorem test_wf_refuses_wide_byte : (Instr.rfWrite ⟨0, 0⟩ 0 .w8 256).wf = false := by decide

theorem test_wf_accepts_widest_byte : (Instr.rfWrite ⟨0, 0⟩ 0 .w8 255).wf = true := by decide

theorem test_decoder_refuses_wide_byte :
    decode ⟨.operation, 0x4601, { arg32 := 256 }⟩ = .error .valueTooWide := by decide

/-! ## Words, written from R82, R83, R94: the magic or group in bits 15:8, the index in bits 7:0 -/

/-- Magic `'L'` is 0b01001100. -/
theorem test_decode_led_commands :
    [0b0100110000000000, 0b0100110000000001, 0b0100110000000010, 0b0100110000000011, 0b0100110000000100].map
      (decodeTableWord 16) =
    [some (.ledGetInit ⟨0, 0, 0⟩ false), some (.ledSetInit ⟨0, 0, 0⟩ false 0), some (.ledGetMask ⟨0, 0, 0⟩ false),
     some (.ledSetMask ⟨0, 0, 0⟩ false 0), some (.ledReset ⟨0, 0, 0⟩ false)] := by decide

/-- Magic `'R'` is 0b01010010. -/
theorem test_decode_rgb_commands :
    [0b0101001000000000, 0b0101001000000001, 0b0101001000000010, 0b0101001000000011].map (decodeTableWord 16) =
    [some (.rgbGetValue ⟨0, 0, 0⟩ false), some (.rgbSetValue ⟨0, 0, 0⟩ false 0), some (.rgbGetPeriod ⟨0, 0, 0⟩ false),
     some (.rgbSetPeriod ⟨0, 0, 0⟩ false 0)] := by decide

/-- Magic `'S'` is 0b01010011. -/
theorem test_decode_switch_commands :
    [0b0101001100000000, 0b0101001100000001, 0b0101001100000010].map (decodeTableWord 16) =
    [some (.swGetMask ⟨0, 0, 0⟩ false), some (.swSetMask ⟨0, 0, 0⟩ false 0), some (.swGetValue ⟨0, 0, 0⟩ false)] := by
  decide

/-- Group `'F'` is 0b01000110. -/
theorem test_decode_register_file :
    [0b0100011000000000, 0b0100011000000001, 0b0100011000000010, 0b0100011000000011].map (decodeTableWord 16) =
    [some (.rfRead ⟨0, 0⟩ 0 .w8), some (.rfWrite ⟨0, 0⟩ 0 .w8 0), some (.rfWriteMasked8 ⟨0, 0⟩ 0 0 0),
     some (.rfBarrier ⟨0, 0⟩)] := by decide

/-- Group `'C'` is 0b01000011, group `'G'` is 0b01000111. -/
theorem test_decode_codec_and_guard :
    [0b0100001100000000, 0b0100001100000001, 0b0100001100000010, 0b0100011100000000, 0b0100011100000001].map
      (decodeTableWord 16) =
    [some (.codecDecode 0 0), some (.codecEncode 0 ⟨0, 0, 0⟩), some (.codecScaleDuty 0 0 0 0),
     some (.guardAcquire ⟨0, 0⟩), some (.guardRelease ⟨0, 0, 0⟩)] := by decide

/-- Group `'l'` is 0b01101100. -/
theorem test_decode_led_stream :
    [0b0110110000000000, 0b0110110000000001, 0b0110110000000010, 0b0110110000000011, 0b0110110000000100].map
      (decodeTableWord 16) =
    [some (.ledOpen ⟨0, 0⟩ .readOnly), some (.ledClose ⟨0, 0, 0⟩), some (.ledStreamRead ⟨0, 0, 0⟩ 0 0),
     some (.ledStreamWrite ⟨0, 0, 0⟩ 0 []), some (.ledSeek ⟨0, 0, 0⟩ 0 .fromStart)] := by decide

/-- Group `'r'` is 0b01110010. -/
theorem test_decode_rgb_stream :
    [0b0111001000000000, 0b0111001000000001, 0b0111001000000010, 0b0111001000000011, 0b0111001000000100].map
      (decodeTableWord 16) =
    [some (.rgbOpen ⟨0, 0⟩ .readOnly), some (.rgbClose ⟨0, 0, 0⟩), some (.rgbStreamRead ⟨0, 0, 0⟩ 0 0),
     some (.rgbStreamWrite ⟨0, 0, 0⟩ 0 []), some (.rgbSeek ⟨0, 0, 0⟩ 0 .fromStart)] := by decide

/-- Group `'s'` is 0b01110011. -/
theorem test_decode_switch_stream :
    [0b0111001100000000, 0b0111001100000001, 0b0111001100000010, 0b0111001100000011, 0b0111001100000100].map
      (decodeTableWord 16) =
    [some (.swOpen ⟨0, 0⟩ .readOnly), some (.swClose ⟨0, 0, 0⟩), some (.swStreamRead ⟨0, 0, 0⟩ 0 0),
     some (.swStreamWrite ⟨0, 0, 0⟩ 0 []), some (.swSeek ⟨0, 0, 0⟩ 0 .fromStart)] := by decide

/-- Group `'A'` is 0b01000001. -/
theorem test_decode_host :
    [0b0100000100000000, 0b0100000100000001, 0b0100000100000010, 0b0100000100000011].map (decodeTableWord 16) =
    [some (.hostAttach .led 0 0), some (.hostDetach 0), some (.hostShutdown 0), some (.hostInterrupt 0)] := by decide

/-- Codes past the last command and past the last selector, and an operation's selector given as a command (R84, R94). -/
theorem test_decode_unknown :
    decodeTableWord 16 0x4C05 = none ∧ decodeTableWord 16 0x5204 = none ∧ decodeTableWord 16 0x5303 = none ∧
    decodeTableWord 16 0x4604 = none ∧ decode ⟨.command, 0x4600, {}⟩ = .error .unknownCommand := by decide

/-! ## A small machine: an LED bank, a PWM block and a switch bank, each with an open session -/

def tLed : LedState := ⟨0xF5, 0x0F⟩
def tRgb : RgbState := ⟨⟨16, 32, 48⟩, 100000⟩
def tSw : SwState := ⟨0x0F⟩
def tSes (token : Nat) (mode : Mode) (pos : Nat) : Session := ⟨token, mode, pos, [], List.replicate 16 0⟩
def tLive (st : DeviceConfig) (token : Nat) (mode : Mode) (pos : Nat) : Live :=
  ⟨st, some token, some (tSes token mode pos)⟩
def tLedLive : Live := tLive (.led tLed) 0 .writeOnly 2
def tRgbLive : Live := tLive (.rgb tRgb) 1 .readWrite 5
def tSwLive : Live := tLive (.sw tSw) 2 .readOnly 3
def tDev (base extent : Nat) (l : Live) : Device := ⟨base, extent, .attached l, [], []⟩
def tEnv : Env := ⟨true, 0x1A, 0, .succeeds, .resourceExhausted, 0x123456AB⟩

/-- Devices 0 (LED), 1 (RGB), 2 (Switch), held with the tokens 0, 1, 2 by the callers 10, 11, 12; device 3 is dead. -/
def tState : State :=
  { State.reset with
    devices := [tDev 0 1 tLedLive, tDev 16 16 tRgbLive, tDev 32 1 tSwLive, ⟨48, 1, .dead .led, [], []⟩]
    nextToken := 3
    env := tEnv }

def cLed : Ctx := ⟨0, 10, 0⟩
def cRgb : Ctx := ⟨1, 11, 1⟩
def cSw : Ctx := ⟨2, 12, 2⟩

/-- The same with an inaccessible buffer. -/
def tBad : State := { tState with env := { tEnv with bufOk := false } }

/-- The same with one device replaced. -/
def tWith (id : Nat) (d : Device) : State := { tState with devices := tState.devices.set id d }

/-- The same with a free guard on the PWM block. -/
def tFree : State := tWith 1 (tDev 16 16 ⟨.rgb tRgb, none, none⟩)

/-- The same with the callers 20 and 21 blocked on the PWM block, 21 in `open`. -/
def tBlocked : State := tWith 1 { tDev 16 16 tRgbLive with blocked := [⟨20, none⟩, ⟨21, some .readOnly⟩] }

/-- The result returned last, where the operation answers. -/
def lastReply (o : Out) : Option Reply :=
  match o with
  | .next s => s.replies.getLast?
  | _ => none

/-- How an operation stops, where it does. -/
def stopOf (o : Out) : Option Stop :=
  match o with
  | .next _ => none
  | .fault f => some (.fault f)
  | .refused r => some (.refuse r)

/-- Something of the next state, where there is one. -/
def look {α : Type} (o : Out) (f : State → α) : Option α :=
  match o with
  | .next s => some (f s)
  | _ => none

/-- The result to a caller. -/
def result (caller : Nat) (r : Ret) : Option Reply := some ⟨.caller caller, r⟩

/-- The events of one device. -/
def eventsAt (id : Nat) (s : State) : List BusEvent := (s.devices[id]?.map Device.events).getD []

/-- A 32-bit write and its barrier. -/
def w32 (offset : Nat) (v : Word) : List BusEvent := [.write offset (.word v), .barrier]

/-- An 8-bit write of the LED register and its barrier. -/
def w8 (v : Byte) : List BusEvent := [.write 0 (.byte v), .barrier]

/-! ## Single steps -/

-- V103, V104: the reset writes 0xF5 & 0x0F.
theorem test_led_get_init : lastReply (exec (.ledGetInit cLed false) tState) = result 10 (.u8 0xF5) := by decide
theorem test_led_set_init : look (exec (.ledSetInit cLed true 0xA7) tState) (fun s => s.live? 0) =
    some (some { tLedLive with st := .led ⟨0xA7, 0x0F⟩ }) := by decide
theorem test_led_get_mask : lastReply (exec (.ledGetMask cLed false) tState) = result 10 (.u8 0x0F) := by decide
theorem test_led_set_mask : look (exec (.ledSetMask cLed true 0xF0) tState) (fun s => s.live? 0) =
    some (some { tLedLive with st := .led ⟨0xF5, 0xF0⟩ }) := by decide
theorem test_led_reset : look (exec (.ledReset cLed false) tState) (fun s => (eventsAt 0 s, s.hw)) =
    some (w8 0x05, [(0, .byte 0x05)]) := by decide

/-- P1 before its step 6: the colour 0x00FF8001 shown at period 100000, the period then set to 65536. -/
def tLate : State :=
  { tWith 1 (tDev 16 16 (tLive (.rgb ⟨⟨255, 128, 1⟩, 65536⟩) 1 .readWrite 5)) with
    hw := [(16, .word 33150), (20, .word 16640), (24, .word 130), (28, .word 100000)] }

-- V72, P1 step 6, V80, V82 (large period), S6.
theorem test_rgb_get_value : lastReply (exec (.rgbGetValue cRgb false) tState) = result 11 (.u32 0x00102030) := by decide
/-- "after its third write and before its fourth, the hardware holds duties (21675, 10880, 85) against period 100000". -/
theorem test_rgb_set_value :
    look (exec (.rgbSetValue cRgb true 0x00FF8001) tLate) (fun t => (eventsAt 1 t, pwmOutputsDuring tLate t 1 .b)) =
      some (w32 0 21675 ++ w32 4 10880 ++ w32 8 85 ++ w32 12 65536,
        [some (130, 100000), some (130, 100000), some (130, 100000), some (85, 100000), some (85, 65536)]) := by decide
theorem test_rgb_set_value_denied :
    lastReply (exec (.rgbSetValue cRgb false 0x00FF0000) tBad) = result 11 (.error .permissionDenied) := by decide
theorem test_rgb_get_period : lastReply (exec (.rgbGetPeriod cRgb false) tState) = result 11 (.u32 100000) := by decide
theorem test_rgb_set_period : look (exec (.rgbSetPeriod cRgb true 65536) tState) (fun s => (s.live? 1, s.hw)) =
    some (some { tRgbLive with st := .rgb ⟨⟨16, 32, 48⟩, 65536⟩ }, []) := by decide
theorem test_rgb_set_period_zero : stopOf (exec (.rgbSetPeriod cRgb true 0) tState) = some (.refuse .periodInvariant) := by decide

-- V120, V121, V124, V127.
theorem test_sw_get_mask : lastReply (exec (.swGetMask cSw false) tState) = result 12 (.u8 0x0F) := by decide
theorem test_sw_set_mask : look (exec (.swSetMask cSw true 0x03) tState) (fun s => s.live? 2) =
    some (some { tSwLive with st := .sw ⟨0x03⟩ }) := by decide
theorem test_sw_get_value : lastReply (exec (.swGetValue cSw false) tState) = result 12 (.u8 0x0A) := by decide
theorem test_sw_get_value_fault : look (exec (.swGetValue cSw false) tBad) (fun s => (eventsAt 2 s, s.replies.getLast?)) =
    some ([.read 0 (.byte 0x1A)], result 12 (.error .ioFault)) := by decide

-- V11, V13 and V14, V2, V3, V9; R254.
theorem test_rf_read : lastReply (exec (.rfRead ⟨2, 5⟩ 0 .w8) tState) = result 5 (.u8 0x1A) := by decide
theorem test_rf_read_refused : stopOf (exec (.rfRead ⟨1, 5⟩ 0 .w32) tState) = some (.refuse .readback) ∧
    stopOf (exec (.rfRead ⟨1, 5⟩ 0 .w32) { tState with cfg := { Config.reference with readback := .stored } }) =
      some (.refuse .unwritten) := by decide
theorem test_rf_write : look (exec (.rfWrite ⟨1, 5⟩ 0 .w32 0xFFFFFFFF) tState) State.hw =
    some [(16, .word 0xFFFFFFFF)] := by decide
theorem test_rf_write_undeclared :
    stopOf (exec (.rfWrite ⟨1, 5⟩ 0x10 .w32 1) tState) = some (.fault (.programmingError .offset)) := by decide
theorem test_rf_write_masked8 :
    look (exec (.rfWriteMasked8 ⟨0, 5⟩ 0 0x05 0x0F) { tState with hw := [(0, .byte 0xF0)] }) State.hw =
      some [(0, .byte 0x05)] := by decide
theorem test_rf_barrier : look (exec (.rfBarrier ⟨1, 5⟩) tState) (eventsAt 1) = some [.barrier] ∧
    stopOf (exec (.rfBarrier ⟨3, 5⟩) tState) = some (.fault (.programmingError .lifetime)) := by decide

-- V27, R131's example, V44, V54, V62.
theorem test_codec_decode : lastReply (exec (.codecDecode 5 0xFF123456) tState) = result 5 (.color ⟨18, 52, 86⟩) := by decide
theorem test_codec_encode : lastReply (exec (.codecEncode 5 ⟨0xFF, 0x80, 0x01⟩) tState) = result 5 (.u32 0x00FF8001) := by
  decide
theorem test_codec_scale_duty : lastReply (exec (.codecScaleDuty 5 1000 255 1) tState) = result 5 (.u32 765) := by decide
theorem test_codec_scale_duty_largest :
    lastReply (exec (.codecScaleDuty 5 0xFFFFFFFF 255 1) tState) = result 5 (.u32 0xFEFFFF01) := by decide

-- V230, V231, V233, V236.
theorem test_guard_acquire : look (exec (.guardAcquire ⟨1, 20⟩) tFree) (fun s => (s.replies, (s.live? 1).bind Live.holder)) =
    some ([⟨.caller 20, .token 3⟩], some 3) := by decide
theorem test_guard_acquire_blocks :
    look (exec (.guardAcquire ⟨1, 20⟩) tState) (fun s => (s.replies, s.waiters 1)) = some ([], [⟨20, none⟩]) := by decide
theorem test_guard_release : look (exec (.guardRelease cRgb) tBlocked) (fun s => (s.replies, s.waiters 1)) =
    some ([⟨.caller 11, .ok⟩, ⟨.caller 20, .token 3⟩], [⟨21, some .readOnly⟩]) := by decide
theorem test_guard_release_foreign :
    stopOf (exec (.guardRelease ⟨1, 11, 2⟩) tState) = some (.fault (.programmingError .notHolder)) := by decide

-- V197, V190, V196, V215, V216.
theorem test_led_open : lastReply (exec (.ledOpen ⟨0, 20⟩ .readOnly) tState) = result 20 (.error .invalidArgument) := by decide
theorem test_led_close : look (exec (.ledClose cLed) tState) (fun s => s.live? 0) =
    some (some ⟨.led tLed, none, none⟩) := by decide
theorem test_led_stream_read : lastReply (exec (.ledStreamRead cLed 0 64) tState) = result 10 (.error .ioFault) := by decide
theorem test_led_stream_write :
    look (exec (.ledStreamWrite cLed 0 [0x05, 0x00, 0x0A]) tState) (fun s => (eventsAt 0 s, s.hw, s.replies)) =
      some (w8 0x05 ++ w8 0x0A, [(0, .byte 0x0A)], [⟨.caller 10, .count 2⟩]) := by decide
theorem test_led_seek : look (exec (.ledSeek cLed 3 .fromStart) tState) (fun s => (eventsAt 0 s, s.replies)) =
    some (w8 0x05, [⟨.caller 10, .position 3⟩]) := by decide
theorem test_led_seek_end : look (exec (.ledSeek cLed 0 .fromEnd) tState) (fun s => (eventsAt 0 s, s.replies)) =
    some (w8 0x05, [⟨.caller 10, .error .invalidArgument⟩]) := by decide

-- V180, V151, V154, V212; the texts as bytes.
theorem test_rgb_open : lastReply (exec (.rgbOpen ⟨1, 20⟩ .readWrite) tFree) = result 20 (.session 3) := by decide
theorem test_rgb_close : look (exec (.rgbClose cRgb) tBlocked) (fun s => (s.live? 1).bind Live.holder) = some (some 3) := by
  decide
/-- `"0x10 0x20 0x30\n"` -/
def tText : List Byte :=
  [0x30, 0x78, 0x31, 0x30, 0x20, 0x30, 0x78, 0x32, 0x30, 0x20, 0x30, 0x78, 0x33, 0x30, 0x0A]
theorem test_rgb_stream_read : lastReply (exec (.rgbStreamRead cRgb 0 64) tState) = result 11 (.bytes tText) := by decide
theorem test_rgb_stream_write :
    look (exec (.rgbStreamWrite cRgb 0 tText) tState) (fun s => (eventsAt 1 s, s.replies)) =
      some (w32 0 2080 ++ w32 4 4160 ++ w32 8 6240 ++ w32 12 100000, [⟨.caller 11, .count 15⟩]) := by decide
/-- `"0xZZ 0x00 0x00"` -/
def tBadText : List Byte := [0x30, 0x78, 0x5A, 0x5A, 0x20, 0x30, 0x78, 0x30, 0x30, 0x20, 0x30, 0x78, 0x30, 0x30]
theorem test_rgb_stream_write_malformed :
    lastReply (exec (.rgbStreamWrite cRgb 0 tBadText) tState) = result 11 (.error .invalidFormat) := by decide
theorem test_rgb_seek : look (exec (.rgbSeek cRgb (-6) .fromCurrent) tState) (fun s => (eventsAt 1 s, s.replies)) =
    some (w32 0 0 ++ w32 4 0 ++ w32 8 0, [⟨.caller 11, .error .invalidArgument⟩]) := by decide

-- V205, V200, V204, V218.
theorem test_sw_open : lastReply (exec (.swOpen ⟨2, 20⟩ .readWrite) tState) = result 20 (.error .invalidArgument) := by decide
theorem test_sw_close : look (exec (.swClose cSw) tState) (fun s => (s.live? 2).bind Live.holder) = some none := by decide
theorem test_sw_stream_read : lastReply (exec (.swStreamRead cSw 0 64) tState) = result 12 (.bytes [0x31, 0x30, 0x0A]) := by
  decide
theorem test_sw_stream_write :
    lastReply (exec (.swStreamWrite cSw 0 [0x31]) tBad) = result 12 (.error .invalidArgument) := by decide
theorem test_sw_seek : lastReply (exec (.swSeek cSw (-3) .fromCurrent) tState) = result 12 (.position 0) := by decide

-- V250, V251, V253, V255, V232, V237.
theorem test_host_attach : look (exec (.hostAttach .rgb 64 16) tState) (fun s => (s.live? 4, s.hw)) =
    some (some ⟨.rgb ⟨⟨0, 0, 0⟩, 100000⟩, none, none⟩, []) := by decide
/-- A block one byte short (R250), and one that a live device owns in part, which cannot be mapped (R40, R251). -/
theorem test_host_attach_fails : stopOf (exec (.hostAttach .rgb 64 15) tState) = some (.refuse .extent) ∧
    lastReply (exec (.hostAttach .rgb 31 16) tState) = some ⟨.host, .error .resourceExhausted⟩ := by decide
theorem test_host_detach : look (exec (.hostDetach 1) tState) (fun s => (s.live? 1, s.hw)) =
    some (none, [(16, .word 0), (20, .word 0), (24, .word 0)]) := by decide
theorem test_host_shutdown :
    look (exec (.hostShutdown 0) (tWith 0 (tDev 0 1 (tLive (.led ⟨0xF5, 0⟩) 0 .writeOnly 0)))) (fun s => (eventsAt 0 s, s.hw)) =
      some (w8 0, [(0, .byte 0)]) := by decide
theorem test_host_interrupt : look (exec (.hostInterrupt 20) tBlocked) (fun s => (s.waiters 1, s.replies)) =
    some ([⟨21, some .readOnly⟩], [⟨.caller 20, .error .interrupted⟩, ⟨.host, .ok⟩]) := by decide

/-- V84, through the step: an unknown command code. -/
theorem test_step_unknown_command :
    lastReply (step { tState with pending := [⟨⟨.command, 0x5204, { inst := 1, caller := 11, token := 1 }⟩, tEnv⟩] }) =
      result 11 (.error .invalidCommand) := by decide

/-- R88: digits of either case, `x` lower case only, the space 0x20 only. R89: the bytes before the first NUL, without
whitespace at either end. -/
theorem test_write_texts :
    parseColor [0x30, 0x78, 0x66, 0x46, 0x20, 0x30, 0x78, 0x30, 0x41, 0x20, 0x30, 0x78, 0x61, 0x39] =
      some ⟨255, 10, 169⟩ ∧
    parseColor [0x30, 0x58, 0x66, 0x46, 0x20, 0x30, 0x78, 0x30, 0x41, 0x20, 0x30, 0x78, 0x61, 0x39] = none ∧
    parseColor [0x30, 0x78, 0x66, 0x46, 0x09, 0x30, 0x78, 0x30, 0x41, 0x20, 0x30, 0x78, 0x61, 0x39] = none ∧
    trimmed [0x20, 0x0B, 0x31, 0x20, 0x32, 0x0D, 0x0C, 0x00, 0x33] = [0x31, 0x20, 0x32] := by decide

/-- The texts of V140, V143, V146, V148. -/
theorem test_texts :
    colorText ⟨0, 0, 0⟩ = [0x30, 0x78, 0x30, 0x20, 0x30, 0x78, 0x30, 0x20, 0x30, 0x78, 0x30, 0x0A] ∧
    colorText ⟨1, 10, 171⟩ = [0x30, 0x78, 0x31, 0x20, 0x30, 0x78, 0x61, 0x20, 0x30, 0x78, 0x61, 0x62, 0x0A] ∧
    switchText 0 = [0x30, 0x0A] ∧ switchText 255 = [0x32, 0x35, 0x35, 0x0A] := by decide

/-! ## Witnesses: for each statement with hypotheses, states and operands that meet them all together -/

def dLed : Device := tDev 0 1 tLedLive
def dRgb : Device := tDev 16 16 tRgbLive
def dSw : Device := tDev 32 1 tSwLive

/-- A machine with a call pending: `w` is the call. -/
def tPend (w : CallWord) : State := { tState with pending := [⟨w, tEnv⟩] }

/-- The call that stands for an operation, pending. -/
def tCall (i : Instr) : State := tPend (encode i)

/-- Each device is held, inside its session, by its caller; the buffer is accessible, or not; the parameters meet R6.
Together these are the hypotheses of `GatedCommandsNeedPrivilege`, `GetCommandsReturnFields`, `SetCommandsStoreFields`,
`LedResetWritesMaskedInit`, `UnsupportedDirectionsReturnErrors`, `LedWriteShowsLastPattern`, `RgbReadReturnsText`,
`SwitchReadReturnsText`, the three seek statements, `EndOfLifetimeIsSafe`, and, on the inaccessible buffer, of
`InaccessibleBufferIsIOFault`. -/
theorem test_witness_sessions :
    InSession tState cLed dLed tLedLive (tSes 0 .writeOnly 2) ∧ tLedLive.st = .led tLed ∧
    InSession tState cRgb dRgb tRgbLive (tSes 1 .readWrite 5) ∧ tRgbLive.st = .rgb tRgb ∧
    InSession tState cSw dSw tSwLive (tSes 2 .readOnly 3) ∧ tSwLive.st = .sw tSw ∧ tState.env.bufOk = true ∧
    InSession tBad cLed dLed tLedLive (tSes 0 .writeOnly 2) ∧ InSession tBad cRgb dRgb tRgbLive (tSes 1 .readWrite 5) ∧
    InSession tBad cSw dSw tSwLive (tSes 2 .readOnly 3) ∧ tBad.env.bufOk = false ∧ tState.cfg.wf ∧
    (tSes 0 .writeOnly 2).mode ≠ .readOnly ∧ (tSes 1 .readWrite 5).mode ≠ .writeOnly ∧
    (tSes 2 .readOnly 3).mode ≠ .writeOnly := by decide

theorem test_witness_StepRunsDecodedCall :
    (tCall (.ledReset cLed false)).pending = ⟨encode (.ledReset cLed false), tEnv⟩ :: [] ∧
    decode (encode (.ledReset cLed false)) = .ok (.ledReset cLed false) ∧ tState.pending = [] ∧
    (tPend ⟨.operation, 0x4C00, {}⟩).pending = ⟨⟨.operation, 0x4C00, {}⟩, tEnv⟩ :: [] ∧
    (tPend ⟨.operation, 0x4601, { width := .w8, arg32 := 256 }⟩).pending =
      ⟨⟨.operation, 0x4601, { width := .w8, arg32 := 256 }⟩, tEnv⟩ :: [] ∧ 255 < (256 : Word).toNat := by decide

theorem test_witness_DecodeOfEncode :
    (Instr.rfWrite ⟨1, 2⟩ 12 .w8 255).wf = true ∧ (Instr.rfWrite ⟨1, 2⟩ 12 .w32 0xFFFFFFFF).wf = true := by decide

theorem test_witness_DecodedHasTableCode :
    decode (encode (.swSeek cSw (-1) .fromCurrent)) = .ok (.swSeek cSw (-1) .fromCurrent) := by decide

theorem test_witness_ColorRoundTrips : (0xFFFFFF : Word).toNat ≤ 0xFFFFFF := by decide

theorem test_witness_ScaleDutyIsExact : (1 : Word) ≠ 0 ∧ (0xFFFFFFFF : Word) ≠ 0 := by decide

/-- A scale of 1 at the period 256, of 0 at 255; channels in both orders' reach. -/
theorem test_witness_ScaleDutyLaws :
    (1 : Word) ≠ 0 ∧ scaleDuty 256 0 1 = .ok 0 ∧ scaleDuty 256 1 1 = .ok 1 ∧ scaleDuty 256 255 1 = .ok 255 ∧
    scaleDuty 255 255 1 = .ok 0 ∧ scaleDuty 0 255 1 = .ok 0 := by decide

theorem test_witness_DutyStaysBelowPeriod :
    0 < (256 : Word).toNat ∧ 1 ≤ (1 : Word).toNat ∧ scaleDuty 256 255 1 = .ok 255 ∧ 256 * (1 : Word).toNat ∣ (256 : Word).toNat := by decide

/-- A dead device, a foreign token, a code of another kind. -/
theorem test_witness_CommandChecksComeInOrder :
    commandOf (.ledReset ⟨3, 10, 0⟩ false) = some (⟨3, 10, 0⟩, .led, false) ∧ tState.live? 3 = none ∧
    commandOf (.ledReset ⟨0, 10, 9⟩ false) = some (⟨0, 10, 9⟩, .led, false) ∧ tState.live? 0 = some tLedLive ∧
    tLedLive.holder ≠ some 9 ∧ commandOf (.ledReset cRgb false) = some (cRgb, .led, false) ∧
    Holds tState cRgb dRgb tRgbLive ∧ tRgbLive.st.kind ≠ .led := by decide

/-- The codes next to the tables (R84), by the holder, by another, and on a dead device. -/
theorem test_witness_UnknownCommandCodesAreInvalid :
    decode ⟨.command, 0x5204, cRgb.operands⟩ = .error .unknownCommand ∧
    decode ⟨.command, 0x5204, { inst := 1, token := 9 }⟩ = .error .unknownCommand ∧
    decode ⟨.command, 0x4600, { inst := 3 }⟩ = .error .unknownCommand ∧
    Holds (tPend ⟨.command, 0x5204, cRgb.operands⟩) cRgb.operands.ctx dRgb tRgbLive ∧
    (tPend ⟨.command, 0x5204, { inst := 1, token := 9 }⟩).live? 1 = some tRgbLive ∧ tRgbLive.holder ≠ some 9 ∧
    (tPend ⟨.command, 0x4600, { inst := 3 }⟩).live? 3 = none := by decide

theorem test_witness_ZeroPeriodIsNotStored :
    Holds tState cRgb dRgb tRgbLive ∧ tState.cfg.periodZero = .refuse ∧
    Holds { tState with cfg := { Config.reference with periodZero := .invalidArgument } } cRgb dRgb tRgbLive := by decide

theorem test_witness_SetValueProgramsDuties : Holds tState cRgb dRgb tRgbLive ∧ tState.cfg.wf := by decide

theorem test_witness_SetValueDefinesOutputs : ∃ t, Holds tState cRgb dRgb tRgbLive ∧ tState.env.bufOk = true ∧
    tRgbLive.st = .rgb tRgb ∧ tState.cfg.wf ∧ tRgb.period ≠ 0 ∧
    exec (.rgbSetValue cRgb true 0xFF8001) tState = .next t :=
  ⟨_, by decide, by decide, by decide, by decide, by decide, rfl⟩

theorem test_witness_RegisterWriteLeavesValue :
    tState.devices[1]? = some dRgb ∧ dRgb.life = .attached tRgbLive ∧
    (12, .w32) ∈ declaredRegs tState.cfg tRgbLive.st.kind ∧ tState.devices[0]? = some dLed ∧
    dLed.life = .attached tLedLive ∧ (0, .w8) ∈ declaredRegs tState.cfg tLedLive.st.kind := by decide

/-- The same machine with `READBACK = stored`, one duty written, the LED register written. -/
def tStored : State :=
  { tState with cfg := { Config.reference with readback := .stored }, hw := [(0, .byte 5), (16, .word 33150)] }

/-- The same with cells of the other width, as devices now dead may have left them. -/
def tOverlaid : State := { tStored with hw := [(0, .word 9), (16, .byte 7)] }

theorem test_witness_RegisterReadReturnsValue :
    tState.devices[2]? = some dSw ∧ dSw.life = .attached tSwLive ∧ tSwLive.st = .sw tSw ∧
    tRgbLive.st.kind ≠ .sw ∧ tLedLive.st.kind ≠ .sw ∧ tState.cfg.readback = .refuse ∧ tStored.cfg.readback = .stored ∧
    tStored.devices[1]? = some dRgb ∧ (12, .w32) ∈ declaredRegs tStored.cfg tRgbLive.st.kind ∧
    tStored.hw.read (dRgb.base + 12) = none ∧ (0, .w32) ∈ declaredRegs tStored.cfg tRgbLive.st.kind ∧
    tStored.hw.read (dRgb.base + 0) = some (.word 33150) ∧ tStored.devices[0]? = some dLed ∧
    (0, .w8) ∈ declaredRegs tStored.cfg tLedLive.st.kind ∧ tStored.hw.read (dLed.base + 0) = some (.byte 5) ∧
    tOverlaid.devices[1]? = some dRgb ∧ tOverlaid.hw.read (dRgb.base + 0) = some (.byte 7) ∧
    tOverlaid.devices[0]? = some dLed ∧ tOverlaid.hw.read (dLed.base + 0) = some (.word 9) := by decide

theorem test_witness_RegisterFileFailsFast :
    tState.live? 3 = none ∧ tState.live? 1 = some tRgbLive ∧
    (16, .w32) ∉ declaredRegs tState.cfg tRgbLive.st.kind ∧ (0, .w8) ∉ declaredRegs tState.cfg tRgbLive.st.kind := by decide

theorem test_witness_BarrierChangesNothing :
    tState.devices[1]? = some dRgb ∧ dRgb.life = .attached tRgbLive ∧ tState.live? 3 = none := by decide

/-- A free guard, and an allowed mode. -/
theorem test_witness_FreeGuard :
    tFree.devices[1]? = some (tDev 16 16 ⟨.rgb tRgb, none, none⟩) ∧
    (tDev 16 16 ⟨.rgb tRgb, none, none⟩).life = .attached ⟨.rgb tRgb, none, none⟩ ∧
    modeAllowed tFree.cfg .rgb .readWrite = true := by decide

theorem test_witness_AcquireOnHeldGuardBlocks :
    tBlocked.devices[0]? = some dLed ∧ dLed.life = .attached tLedLive ∧ tLedLive.holder ≠ none ∧
    (∀ e ∈ tBlocked.devices, ∀ x ∈ e.blocked, x.caller ≠ 22) ∧ modeAllowed tBlocked.cfg tLedLive.st.kind .writeOnly = true := by
  decide

theorem test_witness_ReleaseFreesGuard :
    Holds tState cRgb dRgb tRgbLive ∧ dRgb.blocked = [] ∧ tState.live? 1 = some tRgbLive ∧ tRgbLive.holder ≠ some 0 ∧
    tState.live? 3 = none := by decide

/-- Two blocked callers: the first and the last of them can be the one granted. -/
theorem test_witness_ReleaseGrantsAnyWaiter : ∃ d, Holds tBlocked cRgb d tRgbLive ∧ d.blocked ≠ [] ∧
    d.blocked[0]? = some ⟨20, none⟩ ∧ d.blocked[1]? = some ⟨21, some .readOnly⟩ :=
  ⟨{ dRgb with blocked := [⟨20, none⟩, ⟨21, some .readOnly⟩] }, by decide⟩

theorem test_witness_OpenChecksMode :
    tState.devices[0]? = some dLed ∧ dLed.life = .attached tLedLive ∧
    modeAllowed tState.cfg tLedLive.st.kind .readWrite = false ∧ tState.live? 3 = none := by decide

theorem test_witness_CloseEndsSession :
    InSession tState cRgb dRgb tRgbLive (tSes 1 .readWrite 5) ∧ dRgb.blocked = [] := by decide

theorem test_witness_StreamChecksComeInOrder :
    streamOf (.ledClose ⟨3, 10, 0⟩) = some (⟨3, 10, 0⟩, .led) ∧ tState.live? 3 = none ∧
    streamOf (.swSeek ⟨2, 12, 9⟩ 0 .fromEnd) = some (⟨2, 12, 9⟩, .sw) ∧ tState.live? 2 = some tSwLive ∧
    tSwLive.holder ≠ some 9 := by decide

/-- Sessions of the modes that the transfers refuse. -/
theorem test_witness_StreamTransfersAreChecked :
    InSession (tWith 1 (tDev 16 16 (tLive (.rgb tRgb) 1 .writeOnly 0))) cRgb (tDev 16 16 (tLive (.rgb tRgb) 1 .writeOnly 0))
      (tLive (.rgb tRgb) 1 .writeOnly 0) (tSes 1 .writeOnly 0) ∧
    InSession (tWith 1 (tDev 16 16 (tLive (.rgb tRgb) 1 .readOnly 0))) cRgb (tDev 16 16 (tLive (.rgb tRgb) 1 .readOnly 0))
      (tLive (.rgb tRgb) 1 .readOnly 0) (tSes 1 .readOnly 0) ∧
    InSession (tWith 2 (tDev 32 1 (tLive (.sw tSw) 2 .writeOnly 0))) cSw (tDev 32 1 (tLive (.sw tSw) 2 .writeOnly 0))
      (tLive (.sw tSw) 2 .writeOnly 0) (tSes 2 .writeOnly 0) ∧
    InSession (tWith 0 (tDev 0 1 (tLive (.led tLed) 0 .readOnly 0))) cLed (tDev 0 1 (tLive (.led tLed) 0 .readOnly 0))
      (tLive (.led tLed) 0 .readOnly 0) (tSes 0 .readOnly 0) ∧
    (tSes 0 .writeOnly 2).mode ≠ .readOnly ∧ (tSes 1 .readWrite 5).mode ≠ .readOnly ∧
    (tSes 1 .readWrite 5).mode ≠ .writeOnly ∧ (tSes 2 .readOnly 3).mode ≠ .writeOnly := by decide

/-- A triple of 15 bytes, and a text one byte short of 14. -/
theorem test_witness_RgbWriteAppliesTriple :
    InSession tState cRgb dRgb tRgbLive (tSes 1 .readWrite 5) ∧ tState.cfg.wf ∧ 0 + tText.length ≤ tState.cfg.wrBufSize ∧
    parseColor (trimmed ((tSes 1 .readWrite 5).wrBuf.take 0 ++ tText ++ (tSes 1 .readWrite 5).wrBuf.drop (0 + tText.length))) =
      some ⟨16, 32, 48⟩ ∧
    0 + (tText.take 13).length ≤ tState.cfg.wrBufSize ∧
    (trimmed ((tSes 1 .readWrite 5).wrBuf.take 0 ++ tText.take 13 ++
      (tSes 1 .readWrite 5).wrBuf.drop (0 + (tText.take 13).length))).length < 14 := by decide

/-- One byte past the buffer (V157), a text of 15 bytes (V158), 14 bytes that are no triple (V154). -/
theorem test_witness_MalformedRgbWriteIsRejected :
    InSession tState cRgb dRgb tRgbLive (tSes 1 .readWrite 5) ∧
    tState.cfg.wrBufSize < 2 + tText.length ∧
    14 < (trimmed ((tSes 1 .readWrite 5).wrBuf.take 0 ++ (tText.take 14 ++ [0x30]) ++
      (tSes 1 .readWrite 5).wrBuf.drop (0 + 15))).length ∧
    (trimmed ((tSes 1 .readWrite 5).wrBuf.take 0 ++ tBadText ++
      (tSes 1 .readWrite 5).wrBuf.drop (0 + tBadText.length))).length = 14 ∧
    parseColor (trimmed ((tSes 1 .readWrite 5).wrBuf.take 0 ++ tBadText ++
      (tSes 1 .readWrite 5).wrBuf.drop (0 + tBadText.length))) = none := by decide

/-- A seek to position 0 and one to position -1, from the start and from the position. -/
theorem test_witness_seeks :
    (0 : Int) ≤ ((tSes 2 .readOnly 3).pos : Int) + (-3) ∧ ((tSes 2 .readOnly 3).pos : Int) + (-4) < 0 ∧
    (0 : Int) ≤ 0 ∧ (-1 : Int) < 0 ∧ tState.cfg.wf := by decide

theorem test_witness_ReadTextIsWritableFrom16 :
    parseColor (trimmed (colorText ⟨16, 16, 255⟩)) = some ⟨16, 16, 255⟩ ∧
    (trimmed (colorText ⟨15, 16, 255⟩)).length < 14 := by decide

/-- An attach one byte short, one that begins where a live block ends, one that reaches into it; each draw. -/
theorem test_witness_AttachCreatesDefaults :
    (∃ r ∈ declaredRegs tState.cfg .rgb, 15 < r.1 + (if r.2 = .w8 then 1 else 4)) ∧
    (∀ r ∈ declaredRegs tState.cfg .rgb, r.1 + (if r.2 = .w8 then 1 else 4) ≤ 16) ∧
    (∃ d ∈ tState.devices, d.live?.isSome = true ∧ 31 < d.base + d.extent ∧ d.base < 31 + 16) ∧
    (∀ d ∈ tState.devices, d.live?.isSome = true → d.base + d.extent ≤ 48 ∨ 48 + 16 ≤ d.base) ∧
    tState.env.attach = .succeeds ∧
    { tState with env := { tEnv with attach := .resourceExhausted } }.env.attach = .resourceExhausted ∧
    { tState with env := { tEnv with attach := .deviceUnavailable } }.env.attach = .deviceUnavailable := by decide

theorem test_witness_InterruptWakesBlockedCaller :
    (∃ d ∈ tBlocked.devices, ∃ x ∈ d.blocked, x.caller = 20) ∧
    (∀ d ∈ tBlocked.devices, ∀ x ∈ d.blocked, x.caller ≠ 19) := by decide

/-- R6's reference values meet R6's constraints. -/
theorem test_witness_InvariantsHoldAtReset : Config.reference.wf := by decide

/-- The invariants of a machine with three sessions, and its step. -/
theorem test_witness_step_invariants : ∃ t, HwCanonical (tCall (.rgbSetValue cRgb true 0xFF8001)) ∧
    PeriodsPositive (tCall (.rgbSetValue cRgb true 0xFF8001)) ∧ TokensDistinct (tCall (.rgbSetValue cRgb true 0xFF8001)) ∧
    BlocksDisjoint (tCall (.rgbSetValue cRgb true 0xFF8001)) ∧ SessionsFit (tCall (.rgbSetValue cRgb true 0xFF8001)) ∧
    WaitersBlocked (tCall (.rgbSetValue cRgb true 0xFF8001)) ∧ WritesBarriered (tCall (.rgbSetValue cRgb true 0xFF8001)) ∧
    ContentIsLastWrite (tCall (.rgbSetValue cRgb true 0xFF8001)) ∧
    step (tCall (.rgbSetValue cRgb true 0xFF8001)) = .next t :=
  ⟨_, by decide, by decide, by decide, by decide, by decide, by decide, by decide, by decide, rfl⟩

theorem test_witness_ErrorsLeaveNoPartialMutation : ∃ t, exec (.ledSeek cLed 0 .fromEnd) tState = .next t ∧
    t.replies = tState.replies ++ [⟨.caller 10, .error .invalidArgument⟩] ∧
    isResettingSeek (.swSeek cSw 0 .fromEnd) = false := ⟨_, rfl, rfl, rfl⟩

theorem test_witness_UnprivilegedCannotReconfigure : ∃ t, exec (.rgbStreamWrite cRgb 0 tText) tState = .next t ∧
    tState.live? 1 = some tRgbLive ∧ (∃ m, t.live? 1 = some m) ∧ gated (.rgbStreamWrite cRgb 0 tText) = false :=
  ⟨_, rfl, by decide, ⟨_, rfl⟩, rfl⟩

theorem test_witness_OnlyTheHolderChangesStateAndRegisters : ∃ t m, exec (.rgbSetValue cRgb true 0xFF8001) tState = .next t ∧
    tState.live? 1 = some tRgbLive ∧ t.live? 1 = some m ∧ m.st ≠ tRgbLive.st ∧ t.hw.read 16 ≠ tState.hw.read 16 :=
  ⟨_, { tRgbLive with st := .rgb ⟨⟨255, 128, 1⟩, 100000⟩ }, rfl, by decide, by decide, by decide, by decide⟩

theorem test_witness_DeadDevicesStayDead : ∃ t, step (tCall (.hostDetach 0)) = .next t ∧
    (tCall (.hostDetach 0)).devices[3]? = some ⟨48, 1, .dead .led, [], []⟩ := ⟨_, rfl, by decide⟩

end Sys2Proof.Machine
end

section
/-! The register list stays canonical (O50): the only effect that reaches the registers is a write of one cell. -/

namespace Sys2Proof.Machine

/-- What an effect does to the registers: a write access writes one declared register of a live device (R54, R111), and
every other effect leaves them. -/
theorem effect_hw {s t : State} (h : Effect s t) :
    t.hw = s.hw ∨ ∃ (id : Nat) (d : Device) (l : Live) (offset : Nat) (v : RegVal),
      s.devices[id]? = some d ∧ d.life = .attached l ∧ (offset, v.width) ∈ declaredRegs s.cfg l.st.kind ∧
      t.hw = s.hw.write (d.base + offset) v := by
  cases h with
  | writeAccess hd hl hdecl => exact .inr ⟨_, _, _, _, _, hd, hl, hdecl, rfl⟩
  | reply | barrier | readAccess | peripheral | session | grant | block | free | handOver | attach | kill | unblock =>
    exact .inl rfl

/-- The invariant of the register list, for one effect. -/
theorem effect_keeps_hwCanonical {s t : State} (h : Effect s t) (hs : HwCanonical s) : HwCanonical t := by
  unfold HwCanonical
  obtain hhw | ⟨_, d, _, offset, v, _, _, _, hhw⟩ := effect_hw h <;> rw [hhw]
  · exact hs
  · exact memory_write_wf (d.base + offset) v hs

/-- Settles O50: taking a call leaves the registers, and every effect of it keeps the list canonical. -/
theorem registersStayCanonical : Obligations.RegistersStayCanonical := by
  intro s t hs hstep
  exact step_keeps (Inv := HwCanonical) (fun _ _ _ h => h) (fun _ _ => effect_keeps_hwCanonical) hstep hs

end Sys2Proof.Machine
end

section
/-! Lists after one element is replaced or modified: what holds of every element, what holds of every pair, and what a
projection sees. -/

namespace Sys2Proof.Machine

/-- What holds of every other element, and of the new one, holds of every element after a replacement. -/
theorem forall_mem_set_of_ne {α : Type} {l : List α} {P : α → Prop} {i : Nat} {b : α}
    (hl : ∀ j x, j ≠ i → l[j]? = some x → P x) (hb : P b) : ∀ x ∈ l.set i b, P x := by
  intro x hx
  obtain ⟨j, hj⟩ := List.mem_iff_getElem?.mp hx
  by_cases hji : j = i
  · subst hji
    obtain ⟨-, rfl⟩ : j < l.length ∧ b = x := by simpa [List.getElem?_set] using hj
    exact hb
  · exact hl j x hji (by rwa [List.getElem?_set_ne (Ne.symm hji)] at hj)

/-- What holds of every element, and of a new one, holds of every element after a replacement. -/
theorem forall_mem_set {α : Type} {l : List α} {P : α → Prop} (hl : ∀ x ∈ l, P x) (i : Nat) {b : α} (hb : P b) :
    ∀ x ∈ l.set i b, P x :=
  forall_mem_set_of_ne (fun _ x _ hx => hl x (List.mem_of_getElem? hx)) hb

/-- What holds of every pair holds of one element with any other. -/
theorem pairwise_getElem? {α : Type} {l : List α} {R : α → α → Prop} (hsymm : ∀ x y, R x y → R y x)
    (hl : l.Pairwise R) {i j : Nat} {a x : α} (ha : l[i]? = some a) (hx : l[j]? = some x) (hji : j ≠ i) : R x a := by
  obtain ⟨hi, rfl⟩ := List.getElem?_eq_some_iff.mp ha
  obtain ⟨hj, rfl⟩ := List.getElem?_eq_some_iff.mp hx
  rw [List.pairwise_iff_getElem] at hl
  obtain hlt | hlt := Nat.lt_or_gt_of_ne hji
  · exact hl j i hj hi hlt
  · exact hsymm _ _ (hl i j hi hj hlt)

/-- What holds of every pair, and of a new element with every other, holds of every pair after a replacement. -/
theorem pairwise_set {α : Type} {l : List α} {R : α → α → Prop} (hsymm : ∀ x y, R x y → R y x) (hl : l.Pairwise R)
    {i : Nat} {b : α} (hb : ∀ j x, j ≠ i → l[j]? = some x → R x b) : (l.set i b).Pairwise R := by
  rw [List.pairwise_iff_getElem] at hl ⊢
  intro j k hj hk hjk
  rw [List.length_set] at hj hk
  rw [List.getElem_set, List.getElem_set]
  split
  · rw [if_neg (by omega)]
    exact hsymm _ _ (hb k l[k] (by omega) (List.getElem?_eq_getElem hk))
  · split
    · exact hb j l[j] (by omega) (List.getElem?_eq_getElem hj)
    · exact hl j k hj hk hjk

/-- What holds of every element, and a modification keeps, holds of every element after it. -/
theorem forall_mem_modify {α : Type} {l : List α} {P : α → Prop} {f : α → α} (hl : ∀ x ∈ l, P x)
    (hf : ∀ x, P x → P (f x)) (i : Nat) : ∀ x ∈ l.modify i f, P x := by
  cases hi : l[i]? with
  | none => rwa [List.modify_eq_self (List.getElem?_eq_none_iff.mp hi)]
  | some a =>
    rw [modify_eq_set hi]
    exact forall_mem_set hl i (hf a (hl a (List.mem_of_getElem? hi)))

/-- A replacement by a related element leaves at every place a related one. -/
theorem exists_related_set {α : Type} {R : α → α → Prop} (hrefl : ∀ x, R x x) {l : List α} {i j : Nat} {a b x : α}
    (ha : l[i]? = some a) (hab : R a b) (hx : l[j]? = some x) : ∃ y, (l.set i b)[j]? = some y ∧ R x y := by
  by_cases hij : i = j
  · subst hij
    obtain rfl : a = x := Option.some.inj (ha.symm.trans hx)
    exact ⟨b, get_set_self ha b, hab⟩
  · exact ⟨x, by rwa [List.getElem?_set_ne hij], hrefl x⟩

/-- A projection that a modification does not change. -/
theorem map_modify_of_eq {α β : Type} {g : α → β} {f : α → α} (h : ∀ x, g (f x) = g x) (l : List α) (i : Nat) :
    (l.modify i f).map g = l.map g := by
  apply List.ext_getElem?
  intro j
  simp only [List.getElem?_map, List.getElem?_modify]
  cases l[j]? with
  | none => rfl
  | some x => by_cases hj : i = j <;> simp [hj, h]

/-- A projection that a replacement does not change. -/
theorem map_set_of_eq {α β : Type} {l : List α} {i : Nat} {a b : α} (ha : l[i]? = some a) {g : α → β}
    (h : g b = g a) : (l.set i b).map g = l.map g := by
  obtain ⟨hi, rfl⟩ := List.getElem?_eq_some_iff.mp ha
  rw [List.map_set, h, ← List.map_set, List.set_getElem_self]

end Sys2Proof.Machine
end

section
/-! Shared facts: the parameters under an effect, the device table under a barrier, and the kind of a live device. -/

namespace Sys2Proof.Machine

/-- No operation changes a parameter of R6. -/
theorem effect_cfg {s t : State} (h : Effect s t) : t.cfg = s.cfg := by cases h <;> rfl

@[simp] theorem withLive_live? (d : Device) (l : Live) : (d.withLive l).live? = some l := rfl

/-- What a barrier that stands alone does to a view of the devices that does not see it. -/
theorem map_barrier {β : Type} (g : Device → β) (h : ∀ d, g (d.withEvents [.barrier]) = g d) (s : State) (id : Nat) :
    (s.devices.modify id fun d => d.withEvents [.barrier]).map g = s.devices.map g :=
  map_modify_of_eq h s.devices id

/-- The kind of an Attached device is that of its Peripheral State (R29). -/
theorem kind_of_life {d : Device} {l : Live} (h : d.life = .attached l) : d.kind = l.st.kind := by
  simp [Device.kind, h]

/-- A property of the live devices and their kinds is one of the devices that `live?` calls live. -/
theorem forall_live?_kind {d : Device} {P : Kind → Prop} :
    (∀ l ∈ d.live?, P l.st.kind) ↔ (d.live?.isSome = true → P d.kind) := by
  cases h : d.live? with
  | none => simp
  | some l => simp [kind_of_life (life_of_live? h)]

end Sys2Proof.Machine
end

section
/-! The tokens of R32 stay distinct (O52): an operation keeps every guard, frees one, or gives one the next token. -/

namespace Sys2Proof.Machine

/-- The token that holds a device's guard; a dead device has none. -/
def Device.holder? (d : Device) : Option Nat := d.live?.bind Live.holder

/-- The guards of the devices, in their order. -/
def State.holders (s : State) : List (Option Nat) := s.devices.map Device.holder?

/-- Two guards are not held by the same token. -/
def TokensDiffer (a b : Option Nat) : Prop := ∀ t ∈ a, b ≠ some t

theorem TokensDiffer.symm (a b : Option Nat) (h : TokensDiffer a b) : TokensDiffer b a :=
  fun t hb ha => h t ha hb

theorem holdersDiffer_iff {d e : Device} : HoldersDiffer d e ↔ TokensDiffer d.holder? e.holder? := by
  unfold HoldersDiffer TokensDiffer Device.holder?
  cases d.live? <;> cases e.live? <;> simp

/-- `TokensDistinct` speaks of the guards and the token counter only. -/
theorem tokensDistinct_iff {s : State} : TokensDistinct s ↔
    (∀ o ∈ s.holders, ∀ t ∈ o, t < s.nextToken) ∧ s.holders.Pairwise TokensDiffer := by
  have hpair : s.devices.Pairwise HoldersDiffer ↔ s.holders.Pairwise TokensDiffer := by
    rw [State.holders, List.pairwise_map]
    exact List.Pairwise.iff fun _ _ => holdersDiffer_iff
  simp only [TokensDistinct, hpair, State.holders, List.forall_mem_map, Device.holder?, Option.mem_def,
    Option.bind_eq_some_iff, forall_exists_index, and_imp]
  exact and_congr_left' ⟨fun h d hd t l hl ht => h d hd l hl t ht, fun h d hd l hl t ht => h d hd t l hl ht⟩

/-- What an operation can do to the guards (R61, R62, R250, R252). -/
theorem effect_holders {s t : State} (h : Effect s t) :
    t.nextToken = s.nextToken ∧ t.holders = s.holders ∨
    t.nextToken = s.nextToken ∧ (∃ id, t.holders = s.holders.set id none) ∨
    t.nextToken = s.nextToken ∧ t.holders = s.holders ++ [none] ∨
    t.nextToken = s.nextToken + 1 ∧ ∃ id, t.holders = s.holders.set id (some s.nextToken) := by
  cases h with
  | reply => exact .inl ⟨rfl, rfl⟩
  | barrier id => exact .inl ⟨rfl, map_barrier Device.holder? (fun _ => rfl) s id⟩
  | unblock caller => exact .inl ⟨rfl, List.map_map⟩
  | readAccess hd | writeAccess hd | block hd => exact .inl ⟨rfl, map_set_of_eq hd rfl⟩
  | peripheral hd hl | session hd hl =>
    exact .inl ⟨rfl, map_set_of_eq hd (by simp [Device.holder?, live?_of_life hl])⟩
  | free | kill => exact .inr (.inl ⟨rfl, _, List.map_set⟩)
  | attach => exact .inr (.inr (.inl ⟨rfl, List.map_append⟩))
  | grant | handOver => exact .inr (.inr (.inr ⟨rfl, _, List.map_set⟩))

/-- Distinct tokens, for one effect: a guard freed or new has no token, and the next token is above all granted. -/
theorem effect_keeps_tokensDistinct {s t : State} (h : Effect s t) (hs : TokensDistinct s) : TokensDistinct t := by
  rw [tokensDistinct_iff] at hs ⊢
  obtain ⟨hlt, hdiff⟩ := hs
  have differ_none (o : Option Nat) : TokensDiffer o none := by simp [TokensDiffer]
  obtain ⟨hn, hh⟩ | ⟨hn, id, hh⟩ | ⟨hn, hh⟩ | ⟨hn, id, hh⟩ := effect_holders h <;> rw [hn, hh]
  · exact ⟨hlt, hdiff⟩
  · exact ⟨forall_mem_set hlt id (by simp), pairwise_set TokensDiffer.symm hdiff fun _ o _ _ => differ_none o⟩
  · refine ⟨fun o ho => ?_, List.pairwise_append.mpr ⟨hdiff, List.pairwise_singleton _ _, fun o _ => ?_⟩⟩
    · obtain ho | ho := List.mem_append.mp ho
      · exact hlt o ho
      · simp [List.mem_singleton.mp ho]
    · simpa using differ_none o
  · refine ⟨forall_mem_set (fun o ho t ht => Nat.lt_succ_of_lt (hlt o ho t ht)) id (by simp),
      pairwise_set TokensDiffer.symm hdiff fun _ o _ ho t ht heq => ?_⟩
    obtain rfl := Option.some.inj heq
    exact Nat.lt_irrefl _ (hlt o (List.mem_of_getElem? ho) _ ht)

/-- Settles O52: taking a call touches no guard, and every effect of it keeps the tokens distinct. -/
theorem tokensStayDistinct : Obligations.TokensStayDistinct := by
  intro s t hs hstep
  exact step_keeps (Inv := TokensDistinct) (fun _ _ _ h => h) (fun _ _ => effect_keeps_tokensDistinct) hstep hs

end Sys2Proof.Machine
end

section
/-! The register blocks of R40 and what stands in them (O53, O60). This part sees a device as the record of its block:
an operation keeps every record, ends one lifetime, adds one block, or writes one declared register of a live block. -/

namespace Sys2Proof.Machine

/-- What a device's mapping and event history say of its register block. -/
structure BlockRecord where
  base : Nat
  extent : Nat
  kind : Kind
  live : Bool
  /-- the value of the last write to each offset -/
  written : Nat → Option RegVal

/-- What R40, R50 and R26 speak of in a device. -/
def Device.record (d : Device) : BlockRecord where
  base := d.base
  extent := d.extent
  kind := d.kind
  live := d.live?.isSome
  written := lastWrite d.events

/-- The records of the devices, in their order. -/
def State.records (s : State) : List BlockRecord := s.devices.map Device.record

/-- `BlocksApart`, for the records. -/
def BlockRecord.Apart (a b : BlockRecord) : Prop :=
  a.live = true → b.live = true → a.base + a.extent ≤ b.base ∨ b.base + b.extent ≤ a.base

/-- A live block covers the declared registers of its kind. -/
def BlockRecord.Covers (cfg : Config) (r : BlockRecord) : Prop := r.live = true → covers cfg r.kind r.extent = true

/-- The declared registers of a live block hold the values last written. -/
def BlockRecord.Shown (cfg : Config) (hw : Memory) (r : BlockRecord) : Prop :=
  r.live = true → ∀ reg ∈ declaredRegs cfg r.kind, ∀ v ∈ r.written reg.1, hw.read (r.base + reg.1) = some v

theorem BlockRecord.Apart.symm (a b : BlockRecord) (h : a.Apart b) : b.Apart a := fun hb ha => (h ha hb).symm

theorem blocksDisjoint_iff {s : State} : BlocksDisjoint s ↔
    (∀ r ∈ s.records, r.Covers s.cfg) ∧ s.records.Pairwise BlockRecord.Apart := by
  simp only [State.records, List.forall_mem_map, List.pairwise_map]
  exact and_congr_left' (forall₂_congr fun d _ => forall_live?_kind (P := fun k => covers s.cfg k d.extent = true))

theorem contentIsLastWrite_iff {s : State} : ContentIsLastWrite s ↔ ∀ r ∈ s.records, r.Shown s.cfg s.hw := by
  simp only [State.records, List.forall_mem_map]
  exact forall₂_congr fun d _ => forall_live?_kind
    (P := fun k => ∀ r ∈ declaredRegs s.cfg k, ∀ v ∈ lastWrite d.events r.1, s.hw.read (d.base + r.1) = some v)

/-- The last write of a history that goes on. -/
theorem lastWrite_append (es fs : List BusEvent) (offset : Nat) :
    lastWrite (es ++ fs) offset = (lastWrite fs offset).or (lastWrite es offset) := by
  induction es with
  | nil => simp [lastWrite]
  | cons e rest ih =>
    cases e with
    | read | barrier => exact ih
    | write o v => simp only [List.cons_append, lastWrite, ih, Option.or_assoc]

/-- Events that write nothing leave the record. -/
theorem record_withEvents {d : Device} {es : List BusEvent} (h : ∀ offset, lastWrite es offset = none) :
    (d.withEvents es).record = d.record := by
  simp [Device.record, Device.kind, funext_iff, lastWrite_append, h]

/-- A write changes the record at its offset. -/
theorem record_withEvents_write (d : Device) (offset : Nat) (v : RegVal) :
    (d.withEvents (writeEvents offset v)).record =
      { d.record with written := Function.update d.record.written offset (some v) } := by
  have : lastWrite (d.events ++ writeEvents offset v) = Function.update (lastWrite d.events) offset (some v) := by
    funext o
    by_cases ho : o = offset
    · simp [lastWrite_append, writeEvents, lastWrite, ho]
    · simp [lastWrite_append, writeEvents, lastWrite, ho, Ne.symm ho]
  simp [Device.record, Device.kind, this]

theorem record_of_life {d : Device} {l : Live} (h : d.life = .attached l) :
    d.record = ⟨d.base, d.extent, l.st.kind, true, lastWrite d.events⟩ := by
  simp [Device.record, live?_of_life h, kind_of_life h]

/-- A change of what a live device holds leaves its record where the kind is the same. -/
theorem record_withLive {d : Device} {l m : Live} (hl : d.life = .attached l) (hk : m.st.kind = l.st.kind) :
    (d.withLive m).record = d.record := by
  rw [record_of_life (l := m) rfl, record_of_life hl, hk]
  rfl

/-- The record of a block that has just been attached. -/
def BlockRecord.attached (k : Kind) (base size : Nat) : BlockRecord := ⟨base, size, k, true, fun _ => none⟩

theorem record_newDevice (cfg : Config) (k : Kind) (base size : Nat) :
    (newDevice cfg k base size).record = .attached k base size := by
  cases k <;> rfl

/-- An attach finds its block free exactly where it is apart from every block (R40). -/
theorem overlapsLive_eq_false {s : State} {base size : Nat} (k : Kind) :
    overlapsLive s base size = false ↔ ∀ r ∈ s.records, r.Apart (.attached k base size) := by
  simp only [overlapsLive, List.any_eq_false, State.records, List.forall_mem_map]
  refine forall₂_congr fun d _ => ?_
  have hiff : d.record.Apart (.attached k base size) ↔
      (d.live?.isSome = true → d.base + d.extent ≤ base ∨ base + size ≤ d.base) :=
    ⟨fun h hlive => h hlive rfl, fun h hlive _ => h hlive⟩
  rw [hiff]
  by_cases hlive : d.live?.isSome = true
  · simp only [hlive, Bool.true_and, decide_eq_true_eq, true_implies]
    omega
  · simp [hlive]

/-- What an operation can do to the register blocks (R26, R250, R252). -/
theorem effect_records {s t : State} (h : Effect s t) :
    t.hw = s.hw ∧ t.records = s.records ∨
    t.hw = s.hw ∧ (∃ id r, s.records[id]? = some r ∧ t.records = s.records.set id { r with live := false }) ∨
    t.hw = s.hw ∧ (∃ k base size, covers s.cfg k size = true ∧
      (∀ r ∈ s.records, r.Apart (.attached k base size)) ∧ t.records = s.records ++ [.attached k base size]) ∨
    ∃ id r reg v, s.records[id]? = some r ∧ r.live = true ∧ reg ∈ declaredRegs s.cfg r.kind ∧
      t.hw = s.hw.write (r.base + reg.1) v ∧
      t.records = s.records.set id { r with written := Function.update r.written reg.1 (some v) } := by
  have record_of {id : Nat} {d : Device} (hd : s.devices[id]? = some d) : s.records[id]? = some d.record := by
    simp [State.records, hd]
  cases h with
  | reply => exact .inl ⟨rfl, rfl⟩
  | barrier id =>
    exact .inl ⟨rfl, map_barrier Device.record (fun _ => record_withEvents fun _ => rfl) s id⟩
  | unblock caller => exact .inl ⟨rfl, List.map_map⟩
  | readAccess hd => exact .inl ⟨rfl, map_set_of_eq hd (record_withEvents fun _ => rfl)⟩
  | block hd => exact .inl ⟨rfl, map_set_of_eq hd rfl⟩
  | peripheral hd hl hk => exact .inl ⟨rfl, map_set_of_eq hd (record_withLive hl hk)⟩
  | session hd hl | grant hd hl | free hd hl | handOver hd hl =>
    exact .inl ⟨rfl, map_set_of_eq hd (record_withLive hl rfl)⟩
  | @kill id d l hd hl =>
    have : Device.record { d with life := .dead l.st.kind } = { d.record with live := false } := by
      rw [record_of_life hl]; rfl
    exact .inr (.inl ⟨rfl, id, d.record, record_of hd, by rw [← this]; exact List.map_set⟩)
  | attach hc ho =>
    refine .inr (.inr (.inl ⟨rfl, _, _, _, hc, (overlapsLive_eq_false _).mp ho, ?_⟩))
    rw [← record_newDevice s.cfg]
    exact List.map_append
  | @writeAccess id d l offset v hd hl hdecl =>
    refine .inr (.inr (.inr ⟨id, d.record, (offset, v.width), v, record_of hd, ?_, ?_, rfl, ?_⟩))
    · rw [record_of_life hl]
    · rw [record_of_life hl]; exact hdecl
    · rw [← record_withEvents_write]; exact List.map_set

/-! ### The blocks stay apart -/

/-- For one effect: a block whose lifetime ends, or that is written, keeps its extent; one that is new was checked. -/
theorem effect_keeps_blocksDisjoint {s t : State} (h : Effect s t) (hs : BlocksDisjoint s) : BlocksDisjoint t := by
  rw [blocksDisjoint_iff] at hs ⊢
  obtain ⟨hcov, hapart⟩ := hs
  rw [effect_cfg h]
  obtain ⟨-, hr⟩ | ⟨-, id, r, hr, hr'⟩ | ⟨-, k, base, size, hc, hfree, hr⟩ | ⟨id, r, reg, v, hr, hlive, -, -, hr'⟩ :=
    effect_records h
  · rw [hr]; exact ⟨hcov, hapart⟩
  · rw [hr']
    exact ⟨forall_mem_set hcov id (by simp [BlockRecord.Covers]),
      pairwise_set BlockRecord.Apart.symm hapart fun _ _ _ _ => by simp [BlockRecord.Apart]⟩
  · rw [hr]
    exact ⟨List.forall_mem_append.mpr ⟨hcov, List.forall_mem_singleton.mpr fun _ => hc⟩,
      List.pairwise_append.mpr ⟨hapart, List.pairwise_singleton _ _,
        fun x hx => List.forall_mem_singleton.mpr (hfree x hx)⟩⟩
  · rw [hr']
    exact ⟨forall_mem_set hcov id (hcov r (List.mem_of_getElem? hr)),
      pairwise_set BlockRecord.Apart.symm hapart fun _ x hj hx =>
        show x.Apart r from pairwise_getElem? BlockRecord.Apart.symm hapart hr hx hj⟩

/-! ### The content stays the last write -/

/-- A declared register lies inside an extent that covers the kind (R6, R250). -/
theorem offset_lt_of_covers {cfg : Config} {k : Kind} {size : Nat} {reg : Nat × Width} (h : covers cfg k size = true)
    (hreg : reg ∈ declaredRegs cfg k) : reg.1 < size := by
  have hle : reg.1 + Width.bytes reg.2 ≤ size := by simpa using List.all_eq_true.mp h reg hreg
  have : 0 < Width.bytes reg.2 := by cases reg.2 <;> decide
  omega

/-- Registers of blocks that are apart have different addresses (R40). -/
theorem BlockRecord.Apart.address_ne {cfg : Config} {a b : BlockRecord} (h : a.Apart b) (ha : a.live = true)
    (hb : b.live = true) (hca : a.Covers cfg) (hcb : b.Covers cfg) {ra rb : Nat × Width}
    (hra : ra ∈ declaredRegs cfg a.kind) (hrb : rb ∈ declaredRegs cfg b.kind) : a.base + ra.1 ≠ b.base + rb.1 := by
  have := offset_lt_of_covers (hca ha) hra
  have := offset_lt_of_covers (hcb hb) hrb
  have := h ha hb
  omega

/-- For one effect: a write shows in the block it is made to, and reaches no block apart from it. -/
theorem effect_keeps_contentIsLastWrite {s t : State} (h : Effect s t) (hd : BlocksDisjoint s)
    (hs : ContentIsLastWrite s) : ContentIsLastWrite t := by
  rw [blocksDisjoint_iff] at hd
  rw [contentIsLastWrite_iff] at hs ⊢
  obtain ⟨hcov, hapart⟩ := hd
  rw [effect_cfg h]
  obtain ⟨hhw, hr⟩ | ⟨hhw, id, r, hr, hr'⟩ | ⟨hhw, k, base, size, -, -, hr⟩ |
    ⟨id, r, reg, v, hr, hlive, hreg, hhw, hr'⟩ := effect_records h
  · rw [hhw, hr]; exact hs
  · rw [hhw, hr']; exact forall_mem_set hs id (by simp [BlockRecord.Shown])
  · rw [hhw, hr]
    refine List.forall_mem_append.mpr ⟨hs, List.forall_mem_singleton.mpr ?_⟩
    simp [BlockRecord.Shown, BlockRecord.attached]
  · rw [hhw, hr']
    have hrmem := List.mem_of_getElem? hr
    refine forall_mem_set_of_ne (fun j x hj hx hxlive reg' hreg' u hu => ?_) fun _ reg' hreg' u hu => ?_
    · have hxmem := List.mem_of_getElem? hx
      have hne := (pairwise_getElem? BlockRecord.Apart.symm hapart hr hx hj).address_ne hxlive hlive (hcov x hxmem)
        (hcov r hrmem) hreg' hreg
      rw [memory_read_write_other _ _ hne]
      exact hs x hxmem hxlive reg' hreg' u hu
    · by_cases ho : reg'.1 = reg.1
      · obtain rfl : v = u := by simpa [ho] using hu
        simp [ho]
      · rw [memory_read_write_other _ _ (by simpa using ho)]
        exact hs r hrmem hlive reg' hreg' u (by simpa [ho] using hu)

/-- Settles O53: the second part carries the first along, since a write must miss every other live block. -/
theorem contentStaysLastWrite : Obligations.ContentStaysLastWrite := by
  refine ⟨fun s t hs hstep => ?_, fun s t hd hs hstep => ?_⟩
  · exact step_keeps (Inv := BlocksDisjoint) (fun _ _ _ h => h) (fun _ _ => effect_keeps_blocksDisjoint) hstep hs
  · have both : BlocksDisjoint t ∧ ContentIsLastWrite t :=
      step_keeps (Inv := fun s => BlocksDisjoint s ∧ ContentIsLastWrite s) (fun _ _ _ h => h)
        (fun _ _ h ⟨hd, hs⟩ => ⟨effect_keeps_blocksDisjoint h hd, effect_keeps_contentIsLastWrite h hd hs⟩)
        hstep ⟨hd, hs⟩
    exact both.2

/-! ### The records are kept -/

/-- The block and kind of a device are kept, and it is not revived. -/
def BlockRecord.Continues (r r' : BlockRecord) : Prop :=
  r'.base = r.base ∧ r'.extent = r.extent ∧ r'.kind = r.kind ∧ (r.live = false → r'.live = false)

theorem BlockRecord.Continues.refl (r : BlockRecord) : r.Continues r := ⟨rfl, rfl, rfl, id⟩

theorem BlockRecord.Continues.trans {a b c : BlockRecord} (hab : a.Continues b) (hbc : b.Continues c) :
    a.Continues c := by
  obtain ⟨hb, he, hk, hl⟩ := hab
  obtain ⟨hb', he', hk', hl'⟩ := hbc
  exact ⟨hb'.trans hb, he'.trans he, hk'.trans hk, hl' ∘ hl⟩

/-- For one effect: every device is there still, with its block and kind, and a dead one is dead. -/
theorem effect_continues_records {s t : State} (h : Effect s t) {id : Nat} {r : BlockRecord}
    (hr : s.records[id]? = some r) : ∃ r', t.records[id]? = some r' ∧ r.Continues r' := by
  obtain ⟨-, h⟩ | ⟨-, j, q, hq, h⟩ | ⟨-, k, base, size, -, -, h⟩ | ⟨j, q, reg, v, hq, -, -, -, h⟩ :=
    effect_records h <;> rw [h]
  · exact ⟨r, hr, .refl r⟩
  · exact exists_related_set BlockRecord.Continues.refl hq ⟨rfl, rfl, rfl, fun _ => rfl⟩ hr
  · exact ⟨r, by rw [List.getElem?_append_left (List.getElem?_eq_some_iff.mp hr).1, hr], .refl r⟩
  · exact exists_related_set BlockRecord.Continues.refl hq ⟨rfl, rfl, rfl, fun hdead => hdead⟩ hr

/-- The same for a step. -/
theorem step_continues_records {s t : State} (hstep : step s = .next t) {id : Nat} {r : BlockRecord}
    (hr : s.records[id]? = some r) : ∃ r', t.records[id]? = some r' ∧ r.Continues r' :=
  step_keeps (Inv := fun u => ∃ r', u.records[id]? = some r' ∧ r.Continues r') (fun _ _ _ h => h)
    (fun _ _ h ⟨_, hq, hrq⟩ =>
      have ⟨r', hr', hqr'⟩ := effect_continues_records h hq
      ⟨r', hr', hrq.trans hqr'⟩)
    hstep ⟨r, hr, .refl r⟩

/-- No step changes a parameter (R6, R37). -/
theorem step_cfg {s t : State} (hstep : step s = .next t) : t.cfg = s.cfg :=
  step_keeps (Inv := fun u => u.cfg = s.cfg) (fun _ _ _ h => h) (fun _ _ h hu => (effect_cfg h).trans hu) hstep rfl

/-- A device is dead where its record is not live; the kind stays (R254). -/
theorem dead_iff_record {d : Device} {k : Kind} :
    d.life = .dead k ↔ d.record.live = false ∧ d.record.kind = k := by
  unfold Device.record Device.live? Device.kind
  cases d.life <;> simp

/-- Settles O60, from the records that every step continues. -/
theorem deadDevicesStayDead : Obligations.DeadDevicesStayDead := by
  intro s t hstep
  refine ⟨step_cfg hstep, fun id d hd => ?_⟩
  obtain ⟨r', hr', hbase, hextent, hkind, hdead⟩ :=
    step_continues_records hstep (show s.records[id]? = some d.record by simp [State.records, hd])
  obtain ⟨e, he, rfl⟩ : ∃ e, t.devices[id]? = some e ∧ e.record = r' := by simpa [State.records] using hr'
  refine ⟨e, he, hbase, hextent, fun k hk => ?_⟩
  obtain ⟨hlive, hkd⟩ := dead_iff_record.mp hk
  exact dead_iff_record.mpr ⟨hdead hlive, hkind.trans hkd⟩

end Sys2Proof.Machine
end

section
/-! Every period stays above 0 (O51, R28). -/

namespace Sys2Proof.Machine

/-- The Peripheral State of a device (R29); a dead device has none. -/
def Device.peripheral? (d : Device) : Option DeviceConfig := d.live?.map Live.st

/-- The Peripheral States of the devices, in their order. -/
def State.peripherals (s : State) : List (Option DeviceConfig) := s.devices.map Device.peripheral?

theorem peripheral?_withLive {d : Device} {l m : Live} (hl : d.life = .attached l) (hst : m.st = l.st) :
    (d.withLive m).peripheral? = d.peripheral? := by
  simp [Device.peripheral?, live?_of_life hl, hst]

/-- What an operation can do to the Peripheral States (R64, R250, R252): one changes, and no period becomes 0. -/
theorem effect_peripherals {s t : State} (h : Effect s t) :
    t.peripherals = s.peripherals ∨
    (∃ id, t.peripherals = s.peripherals.set id none) ∨
    (∃ k, t.peripherals = s.peripherals ++ [some (.initial s.cfg k)]) ∨
    ∃ id st st', some st ∈ s.peripherals ∧ (∀ rgb ∈ st'.rgb?, rgb.period = 0 → ∃ old ∈ st.rgb?, old.period = 0) ∧
      t.peripherals = s.peripherals.set id (some st') := by
  cases h with
  | reply => exact .inl rfl
  | barrier id => exact .inl (map_barrier Device.peripheral? (fun _ => rfl) s id)
  | unblock caller => exact .inl List.map_map
  | readAccess hd | writeAccess hd | block hd => exact .inl (map_set_of_eq hd rfl)
  | session hd hl | grant hd hl | free hd hl | handOver hd hl =>
    exact .inl (map_set_of_eq hd (peripheral?_withLive hl rfl))
  | kill => exact .inr (.inl ⟨_, List.map_set⟩)
  | attach => exact .inr (.inr (.inl ⟨_, List.map_append⟩))
  | @peripheral id d l st hd hl _ hp =>
    have hmem : some l.st ∈ s.peripherals :=
      List.mem_map.mpr ⟨d, List.mem_of_getElem? hd, by simp [Device.peripheral?, live?_of_life hl]⟩
    exact .inr (.inr (.inr ⟨id, l.st, st, hmem, hp, List.map_set⟩))

/-- The period of a Peripheral State, where it has one, is above 0 (R28). -/
def PeriodPositive (st : DeviceConfig) : Prop := ∀ rgb ∈ st.rgb?, rgb.period ≠ 0

theorem periodsPositive_iff {s : State} : PeriodsPositive s ↔
    s.cfg.periodDefault ≠ 0 ∧ ∀ o ∈ s.peripherals, ∀ st ∈ o, PeriodPositive st := by
  simp [PeriodsPositive, State.peripherals, Device.peripheral?, PeriodPositive]

/-- The defaults of an attach have a positive period where the parameter is positive (R6, R29). -/
theorem periodPositive_initial {cfg : Config} (h : cfg.periodDefault ≠ 0) (k : Kind) :
    PeriodPositive (.initial cfg k) := by
  cases k with
  | rgb => intro rgb hrgb; exact Option.some.inj hrgb ▸ h
  | led | sw => intro rgb hrgb; cases hrgb

/-- For one effect: a Peripheral State that is new is a change that leaves the period above 0, or the defaults. -/
theorem effect_keeps_periodsPositive {s t : State} (h : Effect s t) (hs : PeriodsPositive s) : PeriodsPositive t := by
  rw [periodsPositive_iff] at hs ⊢
  obtain ⟨hdefault, hpos⟩ := hs
  rw [effect_cfg h]
  refine ⟨hdefault, ?_⟩
  obtain hp | ⟨id, hp⟩ | ⟨k, hp⟩ | ⟨id, st, st', hst, hzero, hp⟩ := effect_peripherals h <;> rw [hp]
  · exact hpos
  · exact forall_mem_set hpos id (by simp)
  · refine List.forall_mem_append.mpr ⟨hpos, List.forall_mem_singleton.mpr fun st hst => ?_⟩
    exact Option.some.inj hst ▸ periodPositive_initial hdefault k
  · refine forall_mem_set hpos id fun st'' hst'' rgb hrgb h0 => ?_
    obtain rfl := Option.some.inj hst''
    obtain ⟨old, hold, hold0⟩ := hzero rgb hrgb h0
    exact hpos _ hst st rfl old hold hold0

/-- Settles O51: taking a call touches no Peripheral State, and every effect of it keeps the periods positive. -/
theorem periodStaysPositive : Obligations.PeriodStaysPositive := by
  intro s t hs hstep
  exact step_keeps (Inv := PeriodsPositive) (fun _ _ _ h => h) (fun _ _ => effect_keeps_periodsPositive) hstep hs

end Sys2Proof.Machine
end

section
/-! Every live Session fits (O54, R31, R190): its mode, its buffers and its guard. -/

namespace Sys2Proof.Machine

/-- A blocked caller asks for no mode, or for one the kind allows (R190). -/
def Waiter.Allowed (cfg : Config) (k : Kind) (w : Waiter) : Prop := ∀ m ∈ w.mode, modeAllowed cfg k m = true

/-- The Session of a device fits where it is live, and so would that of each blocked caller. -/
def Device.Fits (cfg : Config) (d : Device) : Prop :=
  ∀ l ∈ d.live?, SessionFits cfg l ∧ ∀ w ∈ d.blocked, w.Allowed cfg l.st.kind

theorem fits_iff_of_life {cfg : Config} {d : Device} {l : Live} (h : d.life = .attached l) :
    d.Fits cfg ↔ SessionFits cfg l ∧ ∀ w ∈ d.blocked, w.Allowed cfg l.st.kind := by
  simp [Device.Fits, live?_of_life h]

/-- The Session of a grant is new and has the mode asked for (R31, R61, R190). -/
theorem sessionFits_granted {cfg : Config} {l : Live} {mode : Option Mode} (token : Nat)
    (hm : ∀ m ∈ mode, modeAllowed cfg l.st.kind m = true) :
    SessionFits cfg { l with holder := some token, session := mode.map (newSession cfg token) } := by
  intro ses hses
  obtain ⟨m, hmode, rfl⟩ := Option.map_eq_some_iff.mp hses
  exact ⟨rfl, hm m hmode, List.length_replicate, Nat.zero_le _⟩

/-- A Session whose position or buffers change keeps fitting: the texts put in the read buffer have at most 15 bytes
(R87, R90), and R6 has no smaller one. -/
theorem sessionFits_changed {cfg : Config} {l : Live} {old new : Session} (hsize : 15 ≤ cfg.rdBufSize)
    (h : SessionFits cfg l) (hold : l.session = some old) (ht : new.token = old.token) (hm : new.mode = old.mode)
    (hw : old.wrBuf.length = cfg.wrBufSize → new.wrBuf.length = cfg.wrBufSize)
    (hr : new.rdBuf.length ≤ max 15 old.rdBuf.length) : SessionFits cfg { l with session := some new } := by
  intro ses hses
  obtain rfl := Option.some.inj hses
  obtain ⟨hholder, hmode, hwr, hrd⟩ := h old hold
  exact ⟨by rw [ht]; exact hholder, by rw [hm]; exact hmode, hw hwr, hr.trans (max_le hsize hrd)⟩

theorem sessionFits_free (cfg : Config) (l : Live) : SessionFits cfg { l with holder := none, session := none } :=
  fun _ hses => nomatch hses

/-- For one effect: the Session stays, changes within its buffers, begins with an allowed mode, or ends. -/
theorem effect_keeps_sessionsFit {s t : State} (h : Effect s t) (hs : SessionsFit s) : SessionsFit t := by
  obtain ⟨hsize, hfits⟩ := hs
  change ∀ d ∈ s.devices, d.Fits s.cfg at hfits
  have held {id : Nat} {d : Device} (hd : s.devices[id]? = some d) : d.Fits s.cfg := hfits d (List.mem_of_getElem? hd)
  have heldLive {id : Nat} {d : Device} {l : Live} (hd : s.devices[id]? = some d) (hl : d.life = .attached l) :=
    (fits_iff_of_life hl).mp (held hd)
  suffices ∀ d ∈ t.devices, d.Fits s.cfg by
    rw [← effect_cfg h] at hsize this
    exact ⟨hsize, this⟩
  cases h with
  | reply => exact hfits
  | barrier id => exact forall_mem_modify (f := fun d => d.withEvents [.barrier]) hfits (fun _ hd => hd) id
  | unblock caller =>
    refine List.forall_mem_map.mpr fun d hd l hl => ?_
    obtain ⟨hses, hwait⟩ := hfits d hd l hl
    exact ⟨hses, fun w hw => hwait w (List.mem_filter.mp hw).1⟩
  | @readAccess _ d hd | @writeAccess _ d _ _ _ hd =>
    have hfit : d.Fits s.cfg := held hd
    exact forall_mem_set hfits _ hfit
  | @peripheral _ _ l st hd hl hk =>
    have hfit := heldLive hd hl
    rw [SessionFits, ← hk] at hfit
    exact forall_mem_set hfits _ ((fits_iff_of_life rfl).mpr hfit)
  | session hd hl hs ht hm hw hr =>
    obtain ⟨hses, hwait⟩ := heldLive hd hl
    exact forall_mem_set hfits _ ((fits_iff_of_life rfl).mpr ⟨sessionFits_changed hsize hses hs ht hm hw hr, hwait⟩)
  | grant hd hl hfree hm =>
    obtain ⟨-, hwait⟩ := heldLive hd hl
    exact forall_mem_set hfits _ ((fits_iff_of_life rfl).mpr ⟨sessionFits_granted _ hm, hwait⟩)
  | @block _ d _ w hd hl _ hm =>
    obtain ⟨hses, hwait⟩ := heldLive hd hl
    have hlife : ({ d with blocked := d.blocked ++ [w] } : Device).life = .attached _ := hl
    refine forall_mem_set hfits _ ((fits_iff_of_life hlife).mpr ⟨hses, List.forall_mem_append.mpr ⟨hwait, ?_⟩⟩)
    exact List.forall_mem_singleton.mpr hm
  | free hd hl =>
    obtain ⟨-, hwait⟩ := heldLive hd hl
    exact forall_mem_set hfits _ ((fits_iff_of_life rfl).mpr ⟨sessionFits_free _ _, hwait⟩)
  | handOver hd hl hw =>
    obtain ⟨-, hwait⟩ := heldLive hd hl
    refine forall_mem_set hfits _ ((fits_iff_of_life rfl).mpr ⟨sessionFits_granted _ ?_, fun w hw => ?_⟩)
    · exact hwait _ (List.mem_of_getElem? hw)
    · exact hwait w (List.mem_of_mem_eraseIdx hw)
  | kill => exact forall_mem_set hfits _ fun _ hl => nomatch hl
  | attach =>
    refine List.forall_mem_append.mpr ⟨hfits, List.forall_mem_singleton.mpr ((fits_iff_of_life rfl).mpr ?_)⟩
    exact ⟨fun _ hses => (nomatch hses), List.forall_mem_nil _⟩

/-- Settles O54: taking a call touches no Session, and every effect of it keeps them fit. -/
theorem sessionsStayFit : Obligations.SessionsStayFit := by
  intro s t hs hstep
  exact step_keeps (Inv := SessionsFit) (fun _ _ _ h => h) (fun _ _ => effect_keeps_sessionsFit) hstep hs

end Sys2Proof.Machine
end

section
/-! Power-on (O1, O49) and the step's choice of what to run (O2). -/

namespace Sys2Proof.Machine

/-- Settles O1: with no device there is no output, and no address of the empty register list is written. -/
theorem resetIsPowerOn : Obligations.ResetIsPowerOn :=
  fun _ => ⟨rfl, rfl, fun _ => rfl, fun _ _ => rfl, fun _ => rfl, rfl, rfl⟩

/-- What is asked of every device holds at power-on, where there is none (R36). -/
theorem forall_devices_resetWith (cfg : Config) (P : Device → Prop) : ∀ d ∈ (State.resetWith cfg).devices, P d :=
  List.forall_mem_nil P

/-- Settles O49: no device to speak of, and what R6 asks of the two parameters that invariants name. -/
theorem invariantsHoldAtReset : Obligations.InvariantsHoldAtReset := by
  intro cfg hcfg
  obtain ⟨hperiod, -, -, -, -, hread, -⟩ := hcfg
  have hdefault : cfg.periodDefault ≠ 0 := fun h0 => by simp [h0] at hperiod
  have none_of := forall_devices_resetWith cfg
  exact ⟨List.Pairwise.nil, ⟨hdefault, none_of _⟩, ⟨none_of _, List.Pairwise.nil⟩, ⟨none_of _, List.Pairwise.nil⟩,
    ⟨hread, none_of _⟩, ⟨List.nodup_nil, none_of _⟩, none_of _, none_of _⟩

/-! ## The step -/

section Step

variable {s : State} {r : Request} {rest : List Request}

/-- With no call made, nothing happens (R21). -/
theorem step_of_idle (h : s.pending = []) : step s = .next s := by
  simp [step, fetch, h]

/-- A call that is an operation of the table runs (R21). -/
theorem step_of_decode {i : Instr} (h : s.pending = r :: rest) (hd : decode r.call = .ok i) :
    step s = exec i { s with pending := rest, env := r.env } := by
  simp [step, fetch, h, hd]

/-- A call that the decoder rejects is answered as the rejection says. -/
theorem step_of_reject {e : Reject} (h : s.pending = r :: rest) (hd : decode r.call = .error e) :
    step s = onReject e r.call.ops { s with pending := rest, env := r.env } := by
  simp [step, fetch, h, hd]

end Step

/-! ## Selectors outside R94 -/

/-- A code is its group and its index (R94). -/
theorem toNat_eq_group_index (code : Half) : code.toNat = 256 * codeGroup code + codeIndex code := by
  simp [codeGroup, codeIndex, Nat.shiftRight_eq_div_pow]
  omega

theorem decodeRfCall_unknown {n : Nat} (h : 4 ≤ n) (o : Operands) :
    decodeRfCall n o = .error .unknownSelector :=
  match n, h with
  | _ + 4, _ => rfl

theorem decodeCodecCall_unknown {n : Nat} (h : 3 ≤ n) (o : Operands) :
    decodeCodecCall n o = .error .unknownSelector :=
  match n, h with
  | _ + 3, _ => rfl

theorem decodeGuardCall_unknown {n : Nat} (h : 2 ≤ n) (o : Operands) :
    decodeGuardCall n o = .error .unknownSelector :=
  match n, h with
  | _ + 2, _ => rfl

theorem decodeLedCall_unknown {n : Nat} (h : 5 ≤ n) (o : Operands) :
    decodeLedCall n o = .error .unknownSelector :=
  match n, h with
  | _ + 5, _ => rfl

theorem decodeRgbCall_unknown {n : Nat} (h : 5 ≤ n) (o : Operands) :
    decodeRgbCall n o = .error .unknownSelector :=
  match n, h with
  | _ + 5, _ => rfl

theorem decodeSwCall_unknown {n : Nat} (h : 5 ≤ n) (o : Operands) :
    decodeSwCall n o = .error .unknownSelector :=
  match n, h with
  | _ + 5, _ => rfl

theorem decodeHostCall_unknown {n : Nat} (h : 4 ≤ n) (o : Operands) :
    decodeHostCall n o = .error .unknownSelector :=
  match n, h with
  | _ + 4, _ => rfl

/-- The selectors of R94. -/
def selectors : List Nat :=
  [0x4600, 0x4601, 0x4602, 0x4603, 0x4300, 0x4301, 0x4302, 0x4700, 0x4701,
    0x6C00, 0x6C01, 0x6C02, 0x6C03, 0x6C04, 0x7200, 0x7201, 0x7202, 0x7203, 0x7204,
    0x7300, 0x7301, 0x7302, 0x7303, 0x7304, 0x4100, 0x4101, 0x4102, 0x4103]

/-- An operation code outside the table is unknown: its group is none of R94, or its index is beyond the last. -/
theorem decodeOperation_unknown {code : Half} (h : code.toNat ∉ selectors) (o : Operands) :
    decodeOperation code o = .error .unknownSelector := by
  simp only [selectors, List.mem_cons, List.not_mem_nil, or_false, not_or, toNat_eq_group_index code] at h
  unfold decodeOperation
  split
  case h_1 hg => exact decodeRfCall_unknown (by omega) o
  case h_2 hg => exact decodeCodecCall_unknown (by omega) o
  case h_3 hg => exact decodeGuardCall_unknown (by omega) o
  case h_4 hg => exact decodeLedCall_unknown (by omega) o
  case h_5 hg => exact decodeRgbCall_unknown (by omega) o
  case h_6 hg => exact decodeSwCall_unknown (by omega) o
  case h_7 hg => exact decodeHostCall_unknown (by omega) o
  case h_8 => rfl

/-- An 8-bit `RF.Write` of a value above 255 is too wide (R111). -/
theorem decodeOperation_tooWide {o : Operands} (hw : o.width = .w8) (hv : 255 < o.arg32.toNat) :
    decodeOperation 0x4601 o = .error .valueTooWide := by
  have hfits : o.width.fits o.arg32 = false := by rw [hw]; exact decide_eq_false (by omega)
  change decodeRfCall 1 o = _
  simp [decodeRfCall, hfits]

/-- A call of an operation is decoded by its selector. -/
theorem decode_of_operation {w : CallWord} (h : w.form = .operation) : decode w = decodeOperation w.code w.ops := by
  simp [decode, h]

/-- Settles O2, from the three answers of a step and the two rejections of the decoder. -/
theorem stepRunsDecodedCall : Obligations.StepRunsDecodedCall := by
  refine ⟨fun _ _ _ _ => step_of_decode, fun _ => step_of_idle, fun s r rest hp hform hcode => ?_,
    fun s r rest hp hform hcode hwidth hvalue => ?_⟩
  · have hd : decode r.call = .error .unknownSelector :=
      (decode_of_operation hform).trans (decodeOperation_unknown hcode r.call.ops)
    exact step_of_reject hp hd
  · have hd : decode r.call = .error .valueTooWide := by
      rw [decode_of_operation hform, hcode]
      exact decodeOperation_tooWide hwidth hvalue
    exact step_of_reject hp hd

end Sys2Proof.Machine
end

section
/-! No caller waits on a free guard, and none waits twice (O55, R61). -/

namespace Sys2Proof.Machine

/-! ### Lists of lists after one is replaced -/

/-- A replacement whose own part is a sublist leaves a sublist of the whole. -/
theorem flatMap_set_sublist {α β : Type} {f : α → List β} {l : List α} {i : Nat} {a b : α} (ha : l[i]? = some a)
    (h : (f b).Sublist (f a)) : ((l.set i b).flatMap f).Sublist (l.flatMap f) := by
  obtain ⟨hi, rfl⟩ := List.getElem?_eq_some_iff.mp ha
  have hl : l.flatMap f = (l.take i ++ l[i] :: l.drop (i + 1)).flatMap f := by simp
  rw [hl, List.set_eq_take_append_cons_drop, if_pos hi]
  simp only [List.flatMap_append, List.flatMap_cons]
  exact (List.Sublist.refl _).append (h.append (List.Sublist.refl _))

/-- A replacement whose own part has one element more leaves a whole with that element more. -/
theorem flatMap_set_perm_cons {α β : Type} {f : α → List β} {l : List α} {i : Nat} {a b : α} {x : β}
    (ha : l[i]? = some a) (h : f b = f a ++ [x]) : ((l.set i b).flatMap f).Perm (x :: l.flatMap f) := by
  obtain ⟨hi, rfl⟩ := List.getElem?_eq_some_iff.mp ha
  have hl : l.flatMap f = (l.take i ++ l[i] :: l.drop (i + 1)).flatMap f := by simp
  rw [hl, List.set_eq_take_append_cons_drop, if_pos hi]
  simp only [List.flatMap_append, List.flatMap_cons, h, List.append_assoc, List.singleton_append]
  rw [← List.append_assoc, ← List.append_assoc]
  exact List.perm_middle

/-! ### The blocked callers -/

/-- The callers blocked on some device, as often as they are blocked (R32). -/
def State.blockedCallers (s : State) : List Nat := (s.devices.flatMap Device.blocked).map Waiter.caller

theorem isBlocked_eq_false {s : State} {caller : Nat} : s.isBlocked caller = false ↔ caller ∉ s.blockedCallers := by
  simp only [State.isBlocked, State.blockedCallers, ← List.any_flatMap, List.any_eq_false, List.mem_map, not_exists,
    not_and, decide_eq_true_eq]

/-- An interruption takes its caller out of the blocked callers and no other (R227). -/
theorem blockedCallers_unblock (caller : Nat) (s : State) :
    (unblock caller s).blockedCallers = s.blockedCallers.filter fun c => c ≠ caller := by
  simp only [State.blockedCallers, unblock, List.flatMap_map, List.filter_map, List.filter_flatMap]
  rfl

/-- What an operation can do to the blocked callers (R61, R62, R227): some leave, or one that was not blocked joins. -/
theorem effect_blockedCallers {s t : State} (h : Effect s t) :
    t.blockedCallers.Sublist s.blockedCallers ∨
    ∃ caller, caller ∉ s.blockedCallers ∧ t.blockedCallers.Perm (caller :: s.blockedCallers) := by
  have leave {id : Nat} {d e : Device} (hd : s.devices[id]? = some d) (he : e.blocked.Sublist d.blocked) :
      (((s.devices.set id e).flatMap Device.blocked).map Waiter.caller).Sublist s.blockedCallers :=
    (flatMap_set_sublist hd he).map _
  cases h with
  | reply => exact .inl (.refl _)
  | barrier id =>
    have hsame := map_barrier Device.blocked (fun _ => rfl) s id
    refine .inl (?_)
    simp only [State.blockedCallers, modifyDevice_devices, List.flatMap_def, hsame]
    exact .refl _
  | readAccess hd | writeAccess hd | peripheral hd | session hd | grant hd | free hd | kill hd =>
    exact .inl (leave hd (.refl _))
  | handOver hd => exact .inl (leave hd (List.eraseIdx_sublist _ _))
  | attach => exact .inl (by simp [State.blockedCallers, newDevice])
  | unblock caller => exact .inl (blockedCallers_unblock caller s ▸ List.filter_sublist)
  | @block id d l w hd hl hheld hm hb =>
    exact .inr ⟨w.caller, isBlocked_eq_false.mp hb, (flatMap_set_perm_cons hd rfl).map _⟩

/-- On a live device callers are blocked only while the guard is held (R61). -/
def Device.WaitsForHolder (d : Device) : Prop := ∀ l ∈ d.live?, l.holder = none → d.blocked = []

theorem waitsForHolder_iff {d : Device} {l : Live} (h : d.life = .attached l) :
    d.WaitsForHolder ↔ (l.holder = none → d.blocked = []) := by
  simp [Device.WaitsForHolder, live?_of_life h]

/-- A change of a live device that leaves its holder leaves who waits for it. -/
theorem waitsForHolder_withLive {d : Device} {l m : Live} (hl : d.life = .attached l) (hm : m.holder = l.holder)
    (h : d.WaitsForHolder) : (d.withLive m).WaitsForHolder := by
  rw [waitsForHolder_iff (l := m) rfl, hm]
  exact (waitsForHolder_iff hl).mp h

/-- For one effect: a guard is freed only where nobody waits, and a caller blocks only where it is held. -/
theorem effect_keeps_waitsForHolder {s t : State} (h : Effect s t) (hs : ∀ d ∈ s.devices, d.WaitsForHolder) :
    ∀ d ∈ t.devices, d.WaitsForHolder := by
  have held {id : Nat} {d : Device} (hd : s.devices[id]? = some d) : d.WaitsForHolder := hs d (List.mem_of_getElem? hd)
  cases h with
  | reply => exact hs
  | barrier id => exact forall_mem_modify (f := fun d => d.withEvents [.barrier]) hs (fun _ hd => hd) id
  | unblock caller =>
    refine List.forall_mem_map.mpr fun d hd l hl hfree => ?_
    simp [hs d hd l hl hfree]
  | @readAccess _ d hd | @writeAccess _ d _ _ _ hd =>
    have hwait : d.WaitsForHolder := held hd
    exact forall_mem_set hs _ hwait
  | peripheral hd hl | session hd hl => exact forall_mem_set hs _ (waitsForHolder_withLive hl rfl (held hd))
  | grant | handOver => exact forall_mem_set hs _ ((waitsForHolder_iff rfl).mpr fun hfree => nomatch hfree)
  | free _ _ hb => exact forall_mem_set hs _ ((waitsForHolder_iff rfl).mpr fun _ => hb)
  | @block id d l w _ hl hheld =>
    have hlife : ({ d with blocked := d.blocked ++ [w] } : Device).life = .attached l := hl
    exact forall_mem_set hs _ ((waitsForHolder_iff hlife).mpr fun hfree => absurd hfree hheld)
  | kill => exact forall_mem_set hs _ fun _ hl => nomatch hl
  | attach =>
    exact List.forall_mem_append.mpr ⟨hs, List.forall_mem_singleton.mpr ((waitsForHolder_iff rfl).mpr fun _ => rfl)⟩

/-- Both parts of the invariant, for one effect. -/
theorem effect_keeps_waitersBlocked {s t : State} (h : Effect s t) (hs : WaitersBlocked s) : WaitersBlocked t := by
  obtain ⟨honce, hwait⟩ := hs
  refine ⟨?_, effect_keeps_waitsForHolder h hwait⟩
  obtain hleave | ⟨caller, hnew, hjoin⟩ := effect_blockedCallers h
  · exact honce.sublist hleave
  · exact hjoin.nodup_iff.mpr (List.nodup_cons.mpr ⟨hnew, honce⟩)

/-- Settles O55: taking a call touches no blocked caller, and every effect of it keeps both parts. -/
theorem noWaiterIsForgotten : Obligations.NoWaiterIsForgotten := by
  intro s t hs hstep
  exact step_keeps (Inv := WaitersBlocked) (fun _ _ _ h => h) (fun _ _ => effect_keeps_waitersBlocked) hstep hs

end Sys2Proof.Machine
end

section
/-! Every register write has its barrier (O56, R58, R60): an operation adds a write and its barrier together. -/

namespace Sys2Proof.Machine

/-- A history that goes on from a barriered one is barriered where its new part is. -/
theorem barriered_append {es : List BusEvent} (h : barriered es = true) (fs : List BusEvent) :
    barriered (es ++ fs) = barriered fs := by
  fun_induction barriered es with
  | case1 => rfl
  | case2 _ _ rest ih => exact ih h
  | case3 => cases h
  | case4 _ _ rest ih => exact ih h
  | case5 rest ih => exact ih h

/-- For one effect: what it adds to a history is a read, a barrier, or a write and its barrier. -/
theorem effect_keeps_writesBarriered {s t : State} (h : Effect s t) (hs : WritesBarriered s) : WritesBarriered t := by
  have held {id : Nat} {d : Device} (hd : s.devices[id]? = some d) : barriered d.events = true :=
    hs d (List.mem_of_getElem? hd)
  cases h with
  | reply => exact hs
  | barrier id =>
    exact forall_mem_modify (f := fun d => d.withEvents [.barrier]) hs (fun _ hd => barriered_append hd _) id
  | unblock => exact List.forall_mem_map.mpr hs
  | readAccess hd | writeAccess hd => exact forall_mem_set hs _ (barriered_append (held hd) _)
  | @peripheral _ d _ _ hd | @session _ d _ _ _ hd | @grant _ d _ _ hd | @block _ d _ _ hd | @free _ d _ hd
  | @handOver _ d _ _ _ hd | @kill _ d _ hd =>
    have hkept : barriered d.events = true := held hd
    exact forall_mem_set hs _ hkept
  | attach => exact List.forall_mem_append.mpr ⟨hs, List.forall_mem_singleton.mpr rfl⟩

/-- Settles O56: taking a call touches no history, and every effect of it adds each write with its barrier. -/
theorem everyWriteHasItsBarrier : Obligations.EveryWriteHasItsBarrier := by
  intro s t hs hstep
  exact step_keeps (Inv := WritesBarriered) (fun _ _ _ h => h) (fun _ _ => effect_keeps_writesBarriered) hstep hs

end Sys2Proof.Machine
end

section
/-! What a Register File access that is not allowed does (O24, R51, R54, R114): a programming error, with no access. -/

namespace Sys2Proof.Machine

/-- A device that is not Attached was never attached, or is dead (R33). -/
theorem live?_eq_none {s : State} {id : Nat} (h : s.live? id = none) :
    s.devices[id]? = none ∨ ∃ d k, s.devices[id]? = some d ∧ d.life = .dead k := by
  cases hd : s.devices[id]? with
  | none => exact .inl rfl
  | some d =>
    cases hlife : d.life with
    | dead k => exact .inr ⟨d, k, rfl, hlife⟩
    | attached l => exact absurd (h.symm.trans (live?_of_device hd hlife)) (by simp)

section Access

variable {s : State} {id offset : Nat} {w : Width} {v : RegVal} {l : Live}

/-- No access of a device that is not Attached (R54, R254). -/
theorem readRegister_of_not_live (h : s.live? id = none) : readRegister id offset w s = programmingError .lifetime := by
  obtain hd | ⟨d, k, hd, hlife⟩ := live?_eq_none h
  · simp [readRegister, hd]
  · simp [readRegister, hd, hlife]

theorem writeRegister_of_not_live (h : s.live? id = none) :
    writeRegister id offset v s = programmingError .lifetime := by
  obtain hd | ⟨d, k, hd, hlife⟩ := live?_eq_none h
  · simp [writeRegister, hd]
  · simp [writeRegister, hd, hlife]

/-- No access of an undeclared offset, or at a width not declared for it (R54, R114). -/
theorem readRegister_of_undeclared (h : s.live? id = some l) (hdecl : (offset, w) ∉ declaredRegs s.cfg l.st.kind) :
    readRegister id offset w s = programmingError .offset := by
  obtain ⟨d, hd, hlife⟩ := device_of_live? h
  simp [readRegister, hd, hlife, declared_iff, hdecl]

theorem writeRegister_of_undeclared (h : s.live? id = some l)
    (hdecl : (offset, v.width) ∉ declaredRegs s.cfg l.st.kind) :
    writeRegister id offset v s = programmingError .offset := by
  obtain ⟨d, hd, hlife⟩ := device_of_live? h
  simp [writeRegister, hd, hlife, declared_iff, hdecl]

end Access

section Exec

variable {s : State} {w : Site} {offset : Nat} {width : Width} {r : Reason}

/-- A direct read ends as its access does where that is a programming error. -/
theorem exec_rfRead_of_error (h : readRegister w.inst offset width s = programmingError r) :
    exec (.rfRead w offset width) s = .fault (.programmingError r) := by
  simp [exec, execRfRead, h, programmingError]

/-- So does a direct write. -/
theorem exec_rfWrite_of_error {value : Word}
    (h : writeRegister w.inst offset (.ofWord width value) s = programmingError r) :
    exec (.rfWrite w offset width value) s = .fault (.programmingError r) := by
  simp [exec, execRfWrite, h, programmingError, Except.bind]

/-- So does a direct masked write. -/
theorem exec_rfWriteMasked8_of_error {value mask : Byte}
    (h : writeRegister w.inst offset (.byte (maskedByte value mask)) s = programmingError r) :
    exec (.rfWriteMasked8 w offset value mask) s = .fault (.programmingError r) := by
  simp [exec, execRfWriteMasked8, writeMasked8, h, programmingError, Except.bind]

end Exec

/-- Settles O24: the lists of R51, and the two checks of R54 that come before the access. -/
theorem registerFileFailsFast : Obligations.RegisterFileFailsFast := by
  refine ⟨fun cfg r => by simp [declaredRegs],
    fun s w offset width value v8 m8 => ⟨fun hdead => ?_, fun l hl hdecl => ?_⟩⟩
  · exact ⟨exec_rfRead_of_error (readRegister_of_not_live hdead),
      exec_rfWrite_of_error (writeRegister_of_not_live hdead),
      exec_rfWriteMasked8_of_error (writeRegister_of_not_live hdead)⟩
  · refine ⟨exec_rfRead_of_error (readRegister_of_undeclared hl hdecl),
      exec_rfWrite_of_error (writeRegister_of_undeclared hl (by rwa [ofWord_width])), ?_⟩
    rintro rfl
    exact exec_rfWriteMasked8_of_error (writeRegister_of_undeclared hl hdecl)

end Sys2Proof.Machine
end

section
/-! The Session Guard (O26, O27, O28, O29, R61, R62): what an acquire and a release do, each in full. -/

namespace Sys2Proof.Machine

theorem mem_blockedCallers {s : State} {caller : Nat} :
    caller ∈ s.blockedCallers ↔ ∃ d ∈ s.devices, ∃ x ∈ d.blocked, x.caller = caller := by
  simp only [State.blockedCallers, List.mem_map, List.mem_flatMap]
  constructor
  · rintro ⟨x, ⟨d, hd, hx⟩, hcaller⟩; exact ⟨d, hd, x, hx, hcaller⟩
  · rintro ⟨d, hd, x, hx, hcaller⟩; exact ⟨x, ⟨d, hd, hx⟩, hcaller⟩

section Acquire

variable {s : State} {id : Nat} {d : Device} {l : Live}

/-- `acquire` on a free guard: the next token is granted, with a Session where the caller called `open`. -/
theorem acquire_of_free (hd : s.devices[id]? = some d) (hl : d.life = .attached l) (hfree : l.holder = none)
    (w : Waiter) :
    acquire id w s = .ok ({ s with nextToken := s.nextToken + 1 }.after id
      (d.withLive { l with holder := some s.nextToken, session := w.mode.map (newSession s.cfg s.nextToken) }) s.hw
      (.caller w.caller) (grantRet s.nextToken w.mode)) := by
  simp [acquire, liveOf_ok.mpr (live?_of_device hd hl), hfree, grant, State.after, State.reply, State.modifyDevice,
    modify_eq_set hd, mapLive_of_life hl]

/-- `acquire` on a held guard, by a caller that is not blocked: it joins the blocked callers. -/
theorem acquire_of_held (hd : s.devices[id]? = some d) (hl : d.life = .attached l) (hheld : l.holder ≠ none)
    {w : Waiter} (hw : w.caller ∉ s.blockedCallers) :
    acquire id w s = .ok { s with devices := s.devices.set id { d with blocked := d.blocked ++ [w] } } := by
  simp [acquire, liveOf_ok.mpr (live?_of_device hd hl), hheld, isBlocked_eq_false.mpr hw, block, State.modifyDevice,
    modify_eq_set hd]

/-- An `open` of the device's own kind, with a mode the kind allows, is an `acquire` (R190). -/
theorem openStream_of_allowed {w : Site} {m : Mode} (hl : s.live? w.inst = some l)
    (hm : modeAllowed s.cfg l.st.kind m = true) :
    openStream l.st.kind w m s = acquire w.inst ⟨w.caller, some m⟩ s := by
  simp [openStream, liveOf_ok.mpr hl, hm]

end Acquire

theorem exec_guardAcquire (w : Site) (s : State) :
    exec (.guardAcquire w) s = finish (acquire w.inst ⟨w.caller, none⟩ s) := rfl

theorem exec_guardRelease (c : Ctx) (s : State) : exec (.guardRelease c) s = finish (release c s) := rfl

theorem exec_openOf (k : Kind) (w : Site) (m : Mode) (s : State) :
    exec (openOf k w m) s = finish (openStream k w m s) := by
  cases k <;> rfl

/-- Settles O26: a bare `acquire` asks for no Session. -/
theorem acquireOnFreeGuardGrants : Obligations.AcquireOnFreeGuardGrants := by
  intro s w d l hd hl hfree
  rw [exec_guardAcquire, acquire_of_free hd hl hfree]
  rfl

/-- Settles O27: an `open` comes to its `acquire`, and that to the blocked callers. -/
theorem acquireOnHeldGuardBlocks : Obligations.AcquireOnHeldGuardBlocks := by
  intro s w d l hd hl hheld hnew
  have hw : w.caller ∉ s.blockedCallers := by
    rw [mem_blockedCallers]
    rintro ⟨e, he, x, hx, hcaller⟩
    exact hnew e he x hx hcaller
  refine ⟨?_, fun m hm => ?_⟩
  · rw [exec_guardAcquire, acquire_of_held hd hl hheld hw, finish_ok]
  · rw [exec_openOf, openStream_of_allowed (live?_of_device hd hl) hm, acquire_of_held hd hl hheld hw, finish_ok]

/-- A token that is not the holder's releases nothing (R62). -/
theorem release_of_not_holder {s : State} {c : Ctx} {l : Live} (hl : s.live? c.inst = some l)
    (hh : l.holder ≠ some c.token) : release c s = programmingError .notHolder := by
  simp [release, liveOf_ok.mpr hl, hh]

/-- A device that is not Attached has no guard to release (notes/assumptions/16.md). -/
theorem release_of_not_live {s : State} {c : Ctx} (h : s.live? c.inst = none) : release c s = refuse .deadInstance := by
  simp [release, liveOf, h, refuse]

/-- Settles O28, from the three ways a release ends where nobody waits. -/
theorem releaseFreesGuard : Obligations.ReleaseFreesGuard := by
  refine ⟨fun s c d l hholds hb => ?_, fun s c l hl hh => ?_, fun s c hdead => ?_⟩
  · simp [exec_guardRelease, release_of_holds hholds, hb]
  · rw [exec_guardRelease, release_of_not_holder hl hh]; rfl
  · rw [exec_guardRelease, release_of_not_live hdead]; rfl

/-- A release that grants the blocked caller `w`, in full: the caller at the index that the environment drew. -/
theorem exec_guardRelease_of_waiter {s : State} {c : Ctx} {d : Device} {l : Live} (h : Holds s c d l) {w : Waiter}
    (hw : d.blocked[grantIndex s d.blocked.length]? = some w) :
    exec (.guardRelease c) s = .next { s with
      nextToken := s.nextToken + 1
      devices := s.devices.set c.inst { d with
        life := .attached { l with holder := some s.nextToken, session := w.mode.map (newSession s.cfg s.nextToken) }
        blocked := d.blocked.eraseIdx (grantIndex s d.blocked.length) }
      replies := s.replies ++ [⟨.caller c.caller, .ok⟩, ⟨.caller w.caller, grantRet s.nextToken w.mode⟩] } := by
  rw [exec_guardRelease, release_of_holds h, hw, finish_ok]

/-- Settles O29: the index drawn is that of a blocked caller, and the draw `k` is the index of the caller at `k`. -/
theorem releaseGrantsAnyWaiter : Obligations.ReleaseGrantsAnyWaiter := by
  intro s c d l hholds hne
  refine ⟨?_, fun k w hw => ?_⟩
  · have hlt : grantIndex s d.blocked.length < d.blocked.length := Nat.mod_lt _ (List.length_pos_iff.mpr hne)
    have hw := List.getElem?_eq_getElem hlt
    exact ⟨_, _, hw, exec_guardRelease_of_waiter hholds hw⟩
  · have hlt : k < d.blocked.length := (List.getElem?_eq_some_iff.mp hw).1
    have hindex : grantIndex { s with env := { s.env with grant := k } } d.blocked.length = k := Nat.mod_eq_of_lt hlt
    have hexec := exec_guardRelease_of_waiter (s := { s with env := { s.env with grant := k } }) hholds (w := w)
    exact ⟨_, hexec (by rwa [hindex]), rfl⟩

end Sys2Proof.Machine
end

section
/-! Where an operation can change something (O59, R64, R65). An operation that presents a token changes its own device
and the declared registers of that device; one that presents none changes no Peripheral State. -/

namespace Sys2Proof.Machine

/-! ### Changes of one device -/

/-- The bus addresses of the declared registers of a device (R50, R51). -/
def State.registersOf (s : State) (id : Nat) : List Nat :=
  (s.devices[id]?.elim [] fun d => (declaredRegs s.cfg d.kind).map fun r => d.base + r.1)

theorem mem_registersOf {s : State} {id : Nat} {d : Device} (hd : s.devices[id]? = some d) {a : Nat} :
    a ∈ s.registersOf id ↔ ∃ r ∈ declaredRegs s.cfg d.kind, a = d.base + r.1 := by
  simp [State.registersOf, hd, eq_comm]

/-- From `s` to `t` only the device `id` and its declared registers changed, and it kept its registers. -/
structure LocalTo (id : Nat) (s t : State) : Prop where
  owned : t.registersOf id = s.registersOf id
  others : ∀ j, j ≠ id → t.devices[j]? = s.devices[j]?
  registers : ∀ a, t.hw.read a ≠ s.hw.read a → a ∈ s.registersOf id

theorem LocalTo.refl (id : Nat) (s : State) : LocalTo id s s := ⟨rfl, fun _ _ => rfl, fun _ h => absurd rfl h⟩

theorem LocalTo.trans {id : Nat} {s u t : State} (h1 : LocalTo id s u) (h2 : LocalTo id u t) : LocalTo id s t where
  owned := h2.owned.trans h1.owned
  others j hj := (h2.others j hj).trans (h1.others j hj)
  registers a ha := by
    by_cases hu : u.hw.read a = s.hw.read a
    · exact h1.owned ▸ h2.registers a (hu ▸ ha)
    · exact h1.registers a hu

theorem localTo_reply (id : Nat) (s : State) (a : Agent) (r : Ret) : LocalTo id s (s.reply a r) :=
  ⟨rfl, fun _ _ => rfl, fun _ h => absurd rfl h⟩

/-- One device replaced by another at the same base and of the same kind, and at most its registers written. -/
theorem LocalTo.of_set {s t : State} {id : Nat} {d e : Device} (hd : s.devices[id]? = some d)
    (ht : t.devices = s.devices.set id e) (hcfg : t.cfg = s.cfg) (hbase : e.base = d.base) (hkind : e.kind = d.kind)
    (hhw : ∀ a, t.hw.read a ≠ s.hw.read a → a ∈ s.registersOf id) : LocalTo id s t where
  owned := by simp only [State.registersOf, ht, hcfg, get_set_self hd, hd, Option.elim_some, hbase, hkind]
  others j hj := by rw [ht, List.getElem?_set_ne (Ne.symm hj)]
  registers := hhw

/-- A change of one device that leaves its base and kind. -/
theorem modifyDevice_localTo {s : State} {id : Nat} {f : Device → Device}
    (hf : ∀ d, s.devices[id]? = some d → (f d).base = d.base ∧ (f d).kind = d.kind) :
    LocalTo id s (s.modifyDevice id f) := by
  cases hd : s.devices[id]? with
  | none =>
    have : s.modifyDevice id f = s := by
      simp only [State.modifyDevice, List.modify_eq_self (List.getElem?_eq_none_iff.mp hd)]
    rw [this]; exact .refl id s
  | some d =>
    obtain ⟨hbase, hkind⟩ := hf d hd
    exact .of_set hd (modify_eq_set hd f) rfl hbase hkind fun _ h => absurd rfl h

/-- A change of what one live device holds that leaves its kind. -/
theorem modifyLive_localTo {s : State} {id : Nat} {f : Live → Live}
    (hf : ∀ l, s.live? id = some l → (f l).st.kind = l.st.kind) : LocalTo id s (s.modifyLive id f) := by
  refine modifyDevice_localTo fun d hd => ⟨mapLive_base f d, ?_⟩
  cases hl : d.life with
  | attached l => rw [mapLive_of_life hl, kind_of_life hl, ← hf l (live?_of_device hd hl)]; rfl
  | dead k => simp [Device.mapLive, hl]

/-- A change of the Session alone. -/
theorem modifySession_localTo (id : Nat) (f : Session → Session) (s : State) : LocalTo id s (s.modifySession id f) :=
  modifyLive_localTo fun _ _ => rfl

/-! ### Register accesses -/

/-- From `s` to `t` the registers of device `id` were accessed, and no Peripheral State changed. -/
structure Accesses (id : Nat) (s t : State) : Prop extends LocalTo id s t where
  states : t.peripherals = s.peripherals

theorem Accesses.refl (id : Nat) (s : State) : Accesses id s s := ⟨.refl id s, rfl⟩

theorem Accesses.trans {id : Nat} {s u t : State} (h1 : Accesses id s u) (h2 : Accesses id u t) : Accesses id s t :=
  ⟨h1.toLocalTo.trans h2.toLocalTo, h2.states.trans h1.states⟩

theorem Accesses.reply {id : Nat} {s t : State} (h : Accesses id s t) (a : Agent) (r : Ret) :
    Accesses id s (t.reply a r) :=
  ⟨h.toLocalTo.trans (localTo_reply id t a r), h.states⟩

theorem writeRegister_accesses {s t : State} {id offset : Nat} {v : RegVal} (h : writeRegister id offset v s = .ok t) :
    Accesses id s t := by
  obtain ⟨d, l, hd, hl, hdecl, rfl⟩ := writeRegister_ok h
  refine ⟨.of_set hd rfl rfl rfl rfl fun a ha => ?_, map_set_of_eq hd rfl⟩
  have haddr : a = d.base + offset := by
    by_contra hne
    exact ha (memory_read_write_other _ _ hne)
  exact (mem_registersOf hd).mpr ⟨_, by rwa [kind_of_life hl], haddr⟩

theorem readRegister_accesses {s t : State} {id offset : Nat} {w : Width} {v : RegVal}
    (h : readRegister id offset w s = .ok (v, t)) : Accesses id s t := by
  obtain ⟨d, l, hd, -, -, -, rfl⟩ := readRegister_ok h
  exact ⟨.of_set hd rfl rfl rfl rfl fun _ ha => absurd rfl ha, map_set_of_eq hd rfl⟩

theorem readMasked_accesses {s t : State} {id : Nat} {sw : SwState} {v : Byte} (h : readMasked id sw s = .ok (v, t)) :
    Accesses id s t := by
  unfold readMasked at h
  split at h
  · cases h
  · rename_i hr
    cases h
    exact readRegister_accesses hr

theorem resetDuty_accesses {s t : State} {id : Nat} (h : resetDuty id s = .ok t) : Accesses id s t := by
  obtain ⟨s1, h1, h⟩ := bind_ok.mp h
  obtain ⟨s2, h2, h⟩ := bind_ok.mp h
  exact ((writeRegister_accesses h1).trans (writeRegister_accesses h2)).trans (writeRegister_accesses h)

theorem writePatterns_accesses {id : Nat} {led : LedState} {data : List Byte} {s t : State}
    (h : writePatterns id led data s = .ok t) : Accesses id s t := by
  induction data generalizing s with
  | nil => cases h; exact .refl id _
  | cons b rest ih =>
    unfold writePatterns at h
    split at h
    · exact ih h
    · obtain ⟨u, hu, h⟩ := bind_ok.mp h
      exact (writeRegister_accesses hu).trans (ih h)

theorem driveSafe_accesses {id : Nat} {k : Kind} {s t : State} (h : driveSafe id k s = .ok t) : Accesses id s t := by
  cases k with
  | rgb => exact resetDuty_accesses h
  | led => exact writeRegister_accesses h
  | sw => cases h; exact .refl id s

theorem driveSafe_live? {id : Nat} {k : Kind} {s t : State} (h : driveSafe id k s = .ok t) (j : Nat) :
    t.live? j = s.live? j := by
  cases k with
  | rgb => exact resetDuty_live? h j
  | led => exact writeRegister_live? h j
  | sw => cases h; rfl

/-! ### The other procedures of one device -/

/-- The end of a lifetime leaves the device its base and kind (R36). -/
theorem kill_localTo {s : State} {id : Nat} {l : Live} (hl : s.live? id = some l) :
    LocalTo id s (kill id l.st.kind s) := by
  refine modifyDevice_localTo fun d hd => ⟨rfl, ?_⟩
  obtain ⟨e, he, hlife⟩ := device_of_live? hl
  obtain rfl : d = e := Option.some.inj (hd.symm.trans he)
  exact (kind_of_life hlife).symm

theorem returns_localTo {id caller : Nat} {r : Ret} {s t : State} (h : returns caller r s = .ok t) :
    LocalTo id s t := by
  cases h; exact localTo_reply _ _ _ _

theorem raises_localTo {id caller : Nat} {e : Err} {s t : State} (h : raises caller e s = .ok t) : LocalTo id s t := by
  cases h; exact localTo_reply _ _ _ _

theorem copyOut_localTo {id caller : Nat} {r : Ret} {s t : State} (h : copyOut caller r s = .ok t) :
    LocalTo id s t := by
  obtain ⟨-, rfl⟩ | ⟨-, rfl⟩ := copyOut_ok h <;> exact localTo_reply _ _ _ _

theorem copyIn_localTo {id caller : Nat} {s t : State} {k : Except Stop State} (h : copyIn caller s k = .ok t)
    (hk : k = .ok t → LocalTo id s t) : LocalTo id s t := by
  obtain ⟨-, h⟩ | ⟨-, rfl⟩ := copyIn_ok h
  · exact hk h
  · exact localTo_reply _ _ _ _

/-- What follows a local change and ends with a result. -/
theorem bind_returns_localTo {x : Except Stop State} {id caller : Nat} {r : Ret} {s t : State}
    (h : x.bind (returns caller r) = .ok t) (hx : ∀ u, x = .ok u → LocalTo id s u) : LocalTo id s t := by
  obtain ⟨u, hu, ht⟩ := bind_ok.mp h
  exact (hx u hu).trans (returns_localTo ht)

/-- A new Peripheral State of the kind that the device has. -/
theorem setSt_localTo {s : State} {id : Nat} {l : Live} {st : DeviceConfig} (hl : s.live? id = some l)
    (hk : st.kind = l.st.kind) : LocalTo id s (s.setSt id st) := by
  refine modifyLive_localTo fun m hm => ?_
  obtain rfl := Option.some.inj (hl.symm.trans hm)
  exact hk

theorem applyColor_localTo {s t : State} {id : Nat} {l : Live} {rgb : RgbState} {col : ColorValue}
    (hl : s.live? id = some l) (hk : l.st.kind = .rgb) (h : applyColor id rgb col s = .ok t) : LocalTo id s t := by
  obtain ⟨dr, -, h⟩ := bind_ok.mp h
  obtain ⟨dg, -, h⟩ := bind_ok.mp h
  obtain ⟨db, -, h⟩ := bind_ok.mp h
  obtain ⟨s1, h1, h⟩ := bind_ok.mp h
  obtain ⟨s2, h2, h⟩ := bind_ok.mp h
  obtain ⟨s3, h3, h⟩ := bind_ok.mp h
  obtain ⟨s4, h4, h⟩ := bind_ok.mp h
  cases h
  have hl4 : s4.live? id = some l := by
    rw [writeRegister_live? h4, writeRegister_live? h3, writeRegister_live? h2, writeRegister_live? h1, hl]
  have hwrites := ((writeRegister_accesses h1).trans (writeRegister_accesses h2)).trans
    ((writeRegister_accesses h3).trans (writeRegister_accesses h4))
  exact hwrites.toLocalTo.trans (setSt_localTo hl4 hk.symm)

theorem finishRead_localTo {s t : State} {c : Ctx} {offset cap : Nat} {buf : List Byte}
    (h : finishRead c offset cap buf s = .ok t) : LocalTo c.inst s t :=
  (modifySession_localTo _ _ _).trans (returns_localTo h)

theorem finishSeek_localTo {s t : State} {c : Ctx} {pos : Nat} {offset : Int} {wh : Whence}
    (h : finishSeek c pos offset wh s = .ok t) : LocalTo c.inst s t := by
  unfold finishSeek at h
  split at h
  · exact raises_localTo h
  · exact (modifySession_localTo _ _ _).trans (returns_localTo h)

theorem rgbWriteText_localTo {s t : State} {c : Ctx} {l : Live} {rgb : RgbState} {tmp : List Byte} {offset n : Nat}
    (hl : s.live? c.inst = some l) (hk : l.st.kind = .rgb) (h : rgbWriteText c rgb tmp offset n s = .ok t) :
    LocalTo c.inst s t := by
  have hstore : LocalTo c.inst s (storeWrite c.inst tmp (offset + n) s) := modifySession_localTo _ _ _
  unfold rgbWriteText at h
  split at h
  · exact raises_localTo h
  · split at h
    · split at h
      · exact raises_localTo h
      · refine bind_returns_localTo h fun u hu => hstore.trans ?_
        exact applyColor_localTo (modifySession_live? _ hl) hk hu
    · exact hstore.trans (returns_localTo h)

/-- A grant changes the device it is made on. -/
theorem grant_localTo (id : Nat) (w : Waiter) (s : State) : LocalTo id s (grant id w s) := by
  have hcount : LocalTo id s { s with nextToken := s.nextToken + 1 } :=
    ⟨rfl, fun _ _ => rfl, fun _ h => absurd rfl h⟩
  exact (hcount.trans (modifyLive_localTo fun _ _ => by rfl)).trans (localTo_reply _ _ _ _)

theorem grantNext_localTo (id : Nat) (s : State) : LocalTo id s (grantNext id s) := by
  unfold grantNext
  split
  · exact .refl id s
  · exact (modifyDevice_localTo fun _ _ => by exact ⟨rfl, rfl⟩).trans (grant_localTo _ _ _)

/-! ### Operations that present a token -/

/-- The caller of `c` holds its device, and from `s` to `t` only that device and its registers changed. -/
def ByHolder (c : Ctx) (s t : State) : Prop :=
  (∃ l, s.live? c.inst = some l ∧ l.holder = some c.token) ∧ LocalTo c.inst s t

theorem command_byHolder {α : Type} {s t : State} {c : Ctx} {priv gated : Bool} {known : DeviceConfig → Option α}
    {k : α → Except Stop State} (h : command c priv gated known s k = .ok t)
    (hk : ∀ l st, s.live? c.inst = some l → known l.st = some st → k st = .ok t → LocalTo c.inst s t) :
    ByHolder c s t := by
  obtain ⟨l, hl, hh, h⟩ := command_ok h
  refine ⟨⟨l, hl, hh⟩, ?_⟩
  obtain ⟨rfl, -⟩ | ⟨rfl, -⟩ | ⟨st, hst, -, h⟩ := h
  · exact localTo_reply _ _ _ _
  · exact localTo_reply _ _ _ _
  · exact hk l st hl hst h

theorem stream_byHolder {α : Type} {s t : State} {c : Ctx} {known : DeviceConfig → Option α}
    {k : α → Session → Except Stop State} (h : stream c known s k = .ok t)
    (hk : ∀ l ses st, s.live? c.inst = some l → known l.st = some st → k st ses = .ok t → LocalTo c.inst s t) :
    ByHolder c s t := by
  obtain ⟨l, ses, st, hl, hh, -, -, hst, h⟩ := stream_ok h
  exact ⟨⟨l, hl, hh⟩, hk l ses st hl hst h⟩

theorem release_byHolder {s t : State} {c : Ctx} (h : release c s = .ok t) : ByHolder c s t := by
  unfold release at h
  split at h
  · cases h
  · rename_i l hl
    split at h
    · rename_i hh
      cases h
      refine ⟨⟨l, liveOf_ok.mp hl, hh⟩, ?_⟩
      exact ((modifyLive_localTo fun _ _ => by rfl).trans (localTo_reply _ _ _ _)).trans (grantNext_localTo _ _)
    · cases h

theorem closeStream_byHolder {s t : State} {k : Kind} {c : Ctx} (h : closeStream k c s = .ok t) : ByHolder c s t := by
  unfold closeStream at h
  split at h
  · cases h
  · split at h
    · cases h
    · exact release_byHolder h

theorem kind_of_led? {st : DeviceConfig} {led : LedState} (h : st.led? = some led) : st.kind = .led := by
  cases st with
  | led => rfl
  | rgb | sw => cases h

theorem kind_of_rgb? {st : DeviceConfig} {rgb : RgbState} (h : st.rgb? = some rgb) : st.kind = .rgb := by
  cases st with
  | rgb => rfl
  | led | sw => cases h

theorem kind_of_sw? {st : DeviceConfig} {sw : SwState} (h : st.sw? = some sw) : st.kind = .sw := by
  cases st with
  | sw => rfl
  | led | rgb => cases h

/-- An operation that presents a token answers its holder, and changes that one device (R64). -/
theorem exec_byHolder {i : Instr} {s t : State} {c : Ctx} (hc : tokenOf i = some c) (h : exec i s = .next t) :
    ByHolder c s t := by
  cases i with
  | ledGetInit | ledGetMask | rgbGetValue | rgbGetPeriod | swGetMask =>
    cases hc
    exact command_byHolder (finish_next.mp h) fun _ _ _ _ hk => copyOut_localTo hk
  | ledSetInit | ledSetMask =>
    cases hc
    refine command_byHolder (finish_next.mp h) fun l _ hl hst hk => copyIn_localTo hk fun hk => ?_
    exact (setSt_localTo (st := .led _) hl (kind_of_led? hst).symm).trans (returns_localTo hk)
  | ledReset =>
    cases hc
    refine command_byHolder (finish_next.mp h) fun _ _ _ _ hk => bind_returns_localTo hk fun _ hu => ?_
    exact (writeRegister_accesses hu).toLocalTo
  | rgbSetValue =>
    cases hc
    refine command_byHolder (finish_next.mp h) fun l _ hl hst hk => copyIn_localTo hk fun hk => ?_
    exact bind_returns_localTo hk fun _ hu => applyColor_localTo hl (kind_of_rgb? hst) hu
  | rgbSetPeriod =>
    cases hc
    refine command_byHolder (finish_next.mp h) fun l _ hl hst hk => copyIn_localTo hk fun hk => ?_
    split at hk
    · unfold setPeriodZero at hk
      split at hk
      · cases hk
      · exact raises_localTo hk
    · exact (setSt_localTo (st := .rgb _) hl (kind_of_rgb? hst).symm).trans (returns_localTo hk)
  | swSetMask =>
    cases hc
    refine command_byHolder (finish_next.mp h) fun l _ hl hst hk => copyIn_localTo hk fun hk => ?_
    exact (setSt_localTo (st := .sw _) hl (kind_of_sw? hst).symm).trans (returns_localTo hk)
  | swGetValue =>
    cases hc
    refine command_byHolder (finish_next.mp h) fun _ _ _ _ hk => ?_
    split at hk
    · cases hk
    · rename_i hr
      exact (readMasked_accesses hr).toLocalTo.trans (copyOut_localTo hk)
  | guardRelease => cases hc; exact release_byHolder (finish_next.mp h)
  | ledClose | rgbClose | swClose => cases hc; exact closeStream_byHolder (finish_next.mp h)
  | ledStreamRead | swStreamWrite =>
    cases hc
    exact stream_byHolder (finish_next.mp h) fun _ _ _ _ _ hk => raises_localTo hk
  | ledStreamWrite =>
    cases hc
    refine stream_byHolder (finish_next.mp h) fun _ _ _ _ _ hk => copyIn_localTo (requireMode_ok.mp hk).2 fun hk => ?_
    obtain ⟨u, hu, hk⟩ := bind_ok.mp hk
    exact ((writePatterns_accesses hu).toLocalTo.trans (modifySession_localTo _ _ _)).trans (returns_localTo hk)
  | ledSeek =>
    cases hc
    refine stream_byHolder (finish_next.mp h) fun _ _ _ _ _ hk => ?_
    obtain ⟨u, hu, hk⟩ := bind_ok.mp hk
    exact (writeRegister_accesses hu).toLocalTo.trans (finishSeek_localTo hk)
  | rgbStreamRead =>
    cases hc
    refine stream_byHolder (finish_next.mp h) fun _ _ _ _ _ hk => ?_
    exact copyIn_localTo (requireMode_ok.mp hk).2 finishRead_localTo
  | rgbStreamWrite =>
    cases hc
    refine stream_byHolder (finish_next.mp h) fun _ _ _ hl hst hk => ?_
    refine copyIn_localTo (requireMode_ok.mp hk).2 fun hk => ?_
    split at hk
    · exact raises_localTo hk
    · exact rgbWriteText_localTo hl (kind_of_rgb? hst) hk
  | rgbSeek =>
    cases hc
    refine stream_byHolder (finish_next.mp h) fun _ _ _ _ _ hk => ?_
    obtain ⟨u, hu, hk⟩ := bind_ok.mp hk
    exact (resetDuty_accesses hu).toLocalTo.trans (finishSeek_localTo hk)
  | swStreamRead =>
    cases hc
    refine stream_byHolder (finish_next.mp h) fun _ _ _ _ _ hk => copyIn_localTo (requireMode_ok.mp hk).2 fun hk => ?_
    split at hk
    · split at hk
      · cases hk
      · rename_i hr
        exact (readMasked_accesses hr).toLocalTo.trans (finishRead_localTo hk)
    · exact finishRead_localTo hk
  | swSeek =>
    cases hc
    exact stream_byHolder (finish_next.mp h) fun _ _ _ _ _ hk => finishSeek_localTo hk
  | rfRead | rfWrite | rfWriteMasked8 | rfBarrier | codecDecode | codecEncode | codecScaleDuty | guardAcquire
  | ledOpen | rgbOpen | swOpen | hostAttach | hostDetach | hostShutdown | hostInterrupt => cases hc

/-! ### Operations that present none -/

/-- No register and no Peripheral State changed from `s` to `t`. -/
def Untouched (s t : State) : Prop := t.hw = s.hw ∧ t.peripherals = s.peripherals

theorem Untouched.reply {s t : State} (h : Untouched s t) (a : Agent) (r : Ret) : Untouched s (t.reply a r) := h

theorem readRegister_untouched {s t : State} {id offset : Nat} {w : Width} {v : RegVal}
    (h : readRegister id offset w s = .ok (v, t)) : Untouched s t := by
  obtain ⟨d, l, hd, -, -, -, rfl⟩ := readRegister_ok h
  exact ⟨rfl, map_set_of_eq hd rfl⟩

theorem barrier_untouched (id : Nat) (s : State) : Untouched s (barrier id s) :=
  ⟨rfl, map_barrier Device.peripheral? (fun _ => rfl) s id⟩

theorem grant_untouched (id : Nat) (w : Waiter) (s : State) : Untouched s (grant id w s) :=
  ⟨rfl, map_modify_of_eq (fun d => by simp [Device.peripheral?, Function.comp_def]) s.devices id⟩

theorem block_untouched (id : Nat) (w : Waiter) (s : State) : Untouched s (block id w s) :=
  ⟨rfl, map_modify_of_eq (g := Device.peripheral?) (fun _ => by rfl) s.devices id⟩

theorem acquire_untouched {s t : State} {id : Nat} {w : Waiter} (h : acquire id w s = .ok t) : Untouched s t := by
  unfold acquire at h
  split at h
  · cases h
  · split at h
    · cases h; exact grant_untouched id w s
    · split at h
      · cases h
      · cases h; exact block_untouched id w s

theorem openStream_untouched {s t : State} {k : Kind} {w : Site} {m : Mode} (h : openStream k w m s = .ok t) :
    Untouched s t := by
  unfold openStream at h
  split at h
  · cases h
  · split at h
    · cases h
    · split at h
      · exact acquire_untouched h
      · cases h; exact ⟨rfl, rfl⟩

theorem unblock_untouched (caller : Nat) (s : State) : Untouched s (unblock caller s) := ⟨rfl, List.map_map⟩

/-- No device that is live before and after has another Peripheral State. -/
def KeepsStates (s t : State) : Prop := ∀ id l m, s.live? id = some l → t.live? id = some m → m.st = l.st

theorem peripherals_of_live? {s : State} {id : Nat} {l : Live} (h : s.live? id = some l) :
    s.peripherals[id]? = some (some l.st) := by
  obtain ⟨d, hd, hl⟩ := device_of_live? h
  simp [State.peripherals, hd, Device.peripheral?, live?_of_life hl]

/-- Devices may be added (R250). -/
theorem KeepsStates.of_append {s t : State} {new : List (Option DeviceConfig)}
    (h : t.peripherals = s.peripherals ++ new) : KeepsStates s t := by
  intro id l m hl hm
  have hl' := peripherals_of_live? hl
  have hm' := peripherals_of_live? hm
  rw [h, List.getElem?_append_left (List.getElem?_eq_some_iff.mp hl').1, hl'] at hm'
  exact (Option.some.inj (Option.some.inj hm')).symm

theorem KeepsStates.of_eq {s t : State} (h : t.peripherals = s.peripherals) : KeepsStates s t :=
  .of_append (new := []) (by rw [h, List.append_nil])

/-- A lifetime may end (R252). -/
theorem KeepsStates.kill {s t : State} (h : t.peripherals = s.peripherals) (id : Nat) (k : Kind) :
    KeepsStates s (kill id k t) := by
  intro j l m hl hm
  refine KeepsStates.of_eq h j l m hl ?_
  obtain ⟨d, hd, hlife⟩ := device_of_live? hm
  simp only [Sys2Proof.Machine.kill, modifyDevice_devices, List.getElem?_modify, Option.map_eq_map,
    Option.map_eq_some_iff] at hd
  obtain ⟨e, he, rfl⟩ := hd
  by_cases hj : id = j
  · simp [hj] at hlife
  · simp only [hj, if_false] at hlife
    exact live?_of_device he hlife

/-- An operation without a token leaves every Peripheral State, and changes registers only where it is one of the host's
or a direct call of the Register File, on a live device. -/
def Tokenless (i : Instr) (s t : State) : Prop :=
  KeepsStates s t ∧ (t.hw = s.hw ∨ ∃ id l, tokenlessAccess i id ∧ s.live? id = some l ∧ LocalTo id s t)

theorem Untouched.tokenless {i : Instr} {s t : State} (h : Untouched s t) : Tokenless i s t :=
  ⟨.of_eq h.2, .inl h.1⟩

/-- A direct write of a register (R111, R112). -/
theorem tokenless_of_write {i : Instr} {s t : State} {id offset caller : Nat} {v : RegVal} {r : Ret}
    (hi : tokenlessAccess i id) (h : (writeRegister id offset v s).bind (returns caller r) = .ok t) :
    Tokenless i s t := by
  obtain ⟨u, hu, h⟩ := bind_ok.mp h
  cases h
  have hacc := (writeRegister_accesses hu).reply (.caller caller) r
  obtain ⟨d, l, hd, hl, -⟩ := writeRegister_ok hu
  exact ⟨.of_eq hacc.states, .inr ⟨id, l, hi, live?_of_device hd hl, hacc.toLocalTo⟩⟩

/-- The end of a lifetime (R252, R253): the safe default is written, then the Peripheral State is gone. -/
theorem tokenless_of_endLifetime {i : Instr} {s t : State} {id : Nat} (hi : tokenlessAccess i id)
    (h : endLifetime id s = .ok t) : Tokenless i s t := by
  unfold endLifetime at h
  split at h
  · cases h
  · rename_i l hl
    obtain ⟨u, hu, h⟩ := bind_ok.mp h
    cases h
    have hl := liveOf_ok.mp hl
    have hacc := driveSafe_accesses hu
    have hkill := hacc.toLocalTo.trans (kill_localTo ((driveSafe_live? hu id).trans hl))
    exact ⟨.kill hacc.states id l.st.kind, .inr ⟨id, l, hi, hl, hkill.trans (localTo_reply _ _ _ _)⟩⟩

theorem tokenless_of_attach {i : Instr} {s t : State} {k : Kind} {base size : Nat} (h : attach k base size s = .ok t) :
    Tokenless i s t := by
  unfold attach at h
  split at h
  · split at h
    · cases h; exact Untouched.tokenless ⟨rfl, rfl⟩
    · cases h; exact Untouched.tokenless ⟨rfl, rfl⟩
    · split at h <;> cases h
      · exact Untouched.tokenless ⟨rfl, rfl⟩
      · exact ⟨.of_append List.map_append, .inl rfl⟩
  · cases h

/-- An operation that presents no token is one of the Register File, the Codec, an acquire or open, or the host's. -/
theorem exec_tokenless {i : Instr} {s t : State} (hc : tokenOf i = none) (h : exec i s = .next t) :
    Tokenless i s t := by
  cases i with
  | rfRead =>
    have h := finish_next.mp h
    split at h
    · cases h
    · rename_i hr
      cases h
      exact ((readRegister_untouched hr).reply _ _).tokenless
  | rfWrite | rfWriteMasked8 => exact tokenless_of_write rfl (finish_next.mp h)
  | rfBarrier =>
    have h := finish_next.mp h
    split at h
    · cases h
    · cases h
      exact ((barrier_untouched _ _).reply _ _).tokenless
  | codecDecode | codecEncode => cases h; exact Untouched.tokenless ⟨rfl, rfl⟩
  | codecScaleDuty =>
    obtain ⟨_, -, h⟩ := bind_ok.mp (finish_next.mp h)
    cases h
    exact Untouched.tokenless ⟨rfl, rfl⟩
  | guardAcquire => exact (acquire_untouched (finish_next.mp h)).tokenless
  | ledOpen | rgbOpen | swOpen => exact (openStream_untouched (finish_next.mp h)).tokenless
  | hostAttach => exact tokenless_of_attach (finish_next.mp h)
  | hostDetach | hostShutdown => exact tokenless_of_endLifetime rfl (finish_next.mp h)
  | hostInterrupt caller =>
    cases h
    refine (Untouched.reply ?_ _ _).tokenless
    split
    · exact (unblock_untouched caller s).reply _ _
    · exact ⟨rfl, rfl⟩
  | ledGetInit | ledSetInit | ledGetMask | ledSetMask | ledReset | rgbGetValue | rgbSetValue | rgbGetPeriod
  | rgbSetPeriod | swGetMask | swSetMask | swGetValue | guardRelease | ledClose | ledStreamRead | ledStreamWrite
  | ledSeek | rgbClose | rgbStreamRead | rgbStreamWrite | rgbSeek | swClose | swStreamRead | swStreamWrite | swSeek =>
    cases hc

/-! ### The two together -/

/-- A register of a live device, by its declaration (R50, R51). -/
theorem declared_of_mem_registersOf {s : State} {id a : Nat} {l : Live} (hl : s.live? id = some l)
    (ha : a ∈ s.registersOf id) :
    ∃ d r, s.devices[id]? = some d ∧ d.life = .attached l ∧ r ∈ declaredRegs s.cfg l.st.kind ∧
      a = d.base + r.1 := by
  obtain ⟨d, hd, hlife⟩ := device_of_live? hl
  obtain ⟨r, hr, haddr⟩ := (mem_registersOf hd).mp ha
  exact ⟨d, r, hd, hlife, kind_of_life hlife ▸ hr, haddr⟩

/-- A Peripheral State that changed is that of the device whose holder made the operation (R64). -/
theorem exec_changes_state {s t : State} {i : Instr} {id : Nat} {l m : Live} (h : exec i s = .next t)
    (hl : s.live? id = some l) (hm : t.live? id = some m) (hne : m.st ≠ l.st) :
    ∃ c, tokenOf i = some c ∧ c.inst = id ∧ l.holder = some c.token := by
  cases hc : tokenOf i with
  | none => exact absurd ((exec_tokenless hc h).1 id l m hl hm) hne
  | some c =>
    obtain ⟨⟨l', hl', hh⟩, hloc⟩ := exec_byHolder hc h
    have hid : c.inst = id := by
      by_contra hother
      have hsame : t.live? id = s.live? id := by simp only [State.live?, hloc.others id (Ne.symm hother)]
      obtain rfl : m = l := Option.some.inj ((hm.symm.trans hsame).trans hl)
      exact hne rfl
    subst hid
    obtain rfl : l = l' := Option.some.inj (hl.symm.trans hl')
    exact ⟨c, rfl, rfl, hh⟩

/-- A register that changed is a declared one of the holder's device, or of the one accessed without a token (R65). -/
theorem exec_changes_register {s t : State} {i : Instr} {a : Nat} (h : exec i s = .next t)
    (hne : t.hw.read a ≠ s.hw.read a) :
    ∃ id l, s.live? id = some l ∧ a ∈ s.registersOf id ∧
      ((∃ c, tokenOf i = some c ∧ c.inst = id ∧ l.holder = some c.token) ∨ tokenlessAccess i id) := by
  cases hc : tokenOf i with
  | none =>
    obtain ⟨-, hhw | ⟨id, l, hi, hl, hloc⟩⟩ := exec_tokenless hc h
    · exact absurd (by rw [hhw]) hne
    · exact ⟨id, l, hl, hloc.registers a hne, .inr hi⟩
  | some c =>
    obtain ⟨⟨l, hl, hh⟩, hloc⟩ := exec_byHolder hc h
    exact ⟨c.inst, l, hl, hloc.registers a hne, .inl ⟨c, rfl, rfl, hh⟩⟩

/-- Settles O59, from where an operation with a token and one without can change something. -/
theorem onlyTheHolderChangesStateAndRegisters : Obligations.OnlyTheHolderChangesStateAndRegisters := by
  refine ⟨fun s t i id l m h hl hm hne => exec_changes_state h hl hm hne, fun s t i a h hne => ?_⟩
  obtain ⟨id, l, hl, ha, hby⟩ := exec_changes_register h hne
  obtain ⟨d, r, hd, hlife, hr, haddr⟩ := declared_of_mem_registersOf hl ha
  exact ⟨id, d, l, r, hd, hlife, hr, haddr, hby⟩

end Sys2Proof.Machine
end

section
/-! The decoder and the encoder (O3, O4, O5, R82, R83, R94): what each table answers, said once per table, and the round
trip. -/

namespace Sys2Proof.Machine

/-! ## The form of a call -/

theorem decode_command (code : Half) (o : Operands) : decode ⟨.command, code, o⟩ = decodeCommand code o := rfl

theorem decode_operation (code : Half) (o : Operands) : decode ⟨.operation, code, o⟩ = decodeOperation code o := rfl

/-- Settles O5: each row is the decoder of its form run on the code, whatever the operands. -/
theorem tableCodesDecode : Obligations.TableCodesDecode := by
  intro o
  simp only [decode_command, decode_operation]
  and_intros <;> rfl

/-- The form an operation is called in: the twelve of R83 are commands, the rest has a selector of R94. -/
def formOf (i : Instr) : CallForm := if (commandOf i).isSome then .command else .operation

/-- It is the form of the operation's code. -/
theorem formOfCode_code (i : Instr) : formOfCode i.code = formOf i := by
  cases i <;> simp only [Instr.code] <;> rfl

/-! ## The round trip -/

/-- The call that stands for an operation is looked up in the tables of its form. -/
theorem decode_encode (i : Instr) : decode (encode i) =
    if (commandOf i).isSome then decodeCommand i.code i.operands else decodeOperation i.code i.operands := by
  rw [encode, formOfCode_code, formOf]
  split
  · exact decode_command ..
  · exact decode_operation ..

/-- Settles O3: the tables run on the code of each operation. Only `RF.Write` has a check to pass, which is its
well-formedness (R111). -/
theorem decodeOfEncode : Obligations.DecodeOfEncode := by
  intro i hwf
  rw [decode_encode]
  cases i with
  | rfWrite w offset width value =>
    have hfits : width.fits value = true := hwf
    simp only [Instr.code]
    exact if_pos hfits
  | _ => simp only [Instr.code]; rfl

/-! ## What a table answers -/

/-- What the decoder may answer to an index of a group: a well-formed operation that has this code and this form, or a
rejection, which is that of an unknown command in the command form only (R83, R84, R94). -/
def ReadsRow (form : CallForm) (group index : Nat) (answer : Except Reject Instr) : Prop :=
  match answer with
  | .ok i => i.wf = true ∧ i.code.toNat = 256 * group + index ∧ formOf i = form
  | .error e => e = .unknownCommand ↔ form = .command

theorem readsRow_unknownCommand (group index : Nat) : ReadsRow .command group index (.error .unknownCommand) :=
  iff_of_true rfl rfl

theorem readsRow_unknownSelector (group index : Nat) : ReadsRow .operation group index (.error .unknownSelector) :=
  iff_of_false nofun nofun

theorem decodeLedCommand_readsRow (n : Nat) (o : Operands) : ReadsRow .command 0x4C n (decodeLedCommand n o) :=
  match n with
  | 0 | 1 | 2 | 3 | 4 => ⟨rfl, rfl, rfl⟩
  | _ + 5 => readsRow_unknownCommand ..

theorem decodeRgbCommand_readsRow (n : Nat) (o : Operands) : ReadsRow .command 0x52 n (decodeRgbCommand n o) :=
  match n with
  | 0 | 1 | 2 | 3 => ⟨rfl, rfl, rfl⟩
  | _ + 4 => readsRow_unknownCommand ..

theorem decodeSwCommand_readsRow (n : Nat) (o : Operands) : ReadsRow .command 0x53 n (decodeSwCommand n o) :=
  match n with
  | 0 | 1 | 2 => ⟨rfl, rfl, rfl⟩
  | _ + 3 => readsRow_unknownCommand ..

/-- The one table with a check of an operand: a value that passes it makes the write well formed (R111). -/
theorem decodeRfCall_readsRow (n : Nat) (o : Operands) : ReadsRow .operation 0x46 n (decodeRfCall n o) :=
  match n with
  | 0 | 2 | 3 => ⟨rfl, rfl, rfl⟩
  | 1 => by
    rw [decodeRfCall]
    split
    case isTrue hfits => exact ⟨hfits, rfl, rfl⟩
    case isFalse => exact iff_of_false nofun nofun
  | _ + 4 => readsRow_unknownSelector ..

theorem decodeCodecCall_readsRow (n : Nat) (o : Operands) : ReadsRow .operation 0x43 n (decodeCodecCall n o) :=
  match n with
  | 0 | 1 | 2 => ⟨rfl, rfl, rfl⟩
  | _ + 3 => readsRow_unknownSelector ..

theorem decodeGuardCall_readsRow (n : Nat) (o : Operands) : ReadsRow .operation 0x47 n (decodeGuardCall n o) :=
  match n with
  | 0 | 1 => ⟨rfl, rfl, rfl⟩
  | _ + 2 => readsRow_unknownSelector ..

theorem decodeLedCall_readsRow (n : Nat) (o : Operands) : ReadsRow .operation 0x6C n (decodeLedCall n o) :=
  match n with
  | 0 | 1 | 2 | 3 | 4 => ⟨rfl, rfl, rfl⟩
  | _ + 5 => readsRow_unknownSelector ..

theorem decodeRgbCall_readsRow (n : Nat) (o : Operands) : ReadsRow .operation 0x72 n (decodeRgbCall n o) :=
  match n with
  | 0 | 1 | 2 | 3 | 4 => ⟨rfl, rfl, rfl⟩
  | _ + 5 => readsRow_unknownSelector ..

theorem decodeSwCall_readsRow (n : Nat) (o : Operands) : ReadsRow .operation 0x73 n (decodeSwCall n o) :=
  match n with
  | 0 | 1 | 2 | 3 | 4 => ⟨rfl, rfl, rfl⟩
  | _ + 5 => readsRow_unknownSelector ..

theorem decodeHostCall_readsRow (n : Nat) (o : Operands) : ReadsRow .operation 0x41 n (decodeHostCall n o) :=
  match n with
  | 0 | 1 | 2 | 3 => ⟨rfl, rfl, rfl⟩
  | _ + 4 => readsRow_unknownSelector ..

/-! ## What the decoder answers -/

/-- The command codes of R83, by their magic; any other magic is unknown (R84). -/
theorem decodeCommand_readsRow (code : Half) (o : Operands) :
    ReadsRow .command (codeGroup code) (codeIndex code) (decodeCommand code o) := by
  unfold decodeCommand
  split
  case h_1 hg => rw [hg]; exact decodeLedCommand_readsRow ..
  case h_2 hg => rw [hg]; exact decodeRgbCommand_readsRow ..
  case h_3 hg => rw [hg]; exact decodeSwCommand_readsRow ..
  case h_4 => exact readsRow_unknownCommand ..

/-- The selectors of R94, by their group. -/
theorem decodeOperation_readsRow (code : Half) (o : Operands) :
    ReadsRow .operation (codeGroup code) (codeIndex code) (decodeOperation code o) := by
  unfold decodeOperation
  split
  case h_1 hg => rw [hg]; exact decodeRfCall_readsRow ..
  case h_2 hg => rw [hg]; exact decodeCodecCall_readsRow ..
  case h_3 hg => rw [hg]; exact decodeGuardCall_readsRow ..
  case h_4 hg => rw [hg]; exact decodeLedCall_readsRow ..
  case h_5 hg => rw [hg]; exact decodeRgbCall_readsRow ..
  case h_6 hg => rw [hg]; exact decodeSwCall_readsRow ..
  case h_7 hg => rw [hg]; exact decodeHostCall_readsRow ..
  case h_8 => exact readsRow_unknownSelector ..

/-- A call of either form. -/
theorem decode_readsRow (w : CallWord) : ReadsRow w.form (codeGroup w.code) (codeIndex w.code) (decode w) := by
  obtain ⟨form, code, o⟩ := w
  cases form with
  | command => exact decodeCommand_readsRow code o
  | operation => exact decodeOperation_readsRow code o

/-- What is accepted is well formed and has the code and the form of the call. -/
theorem decode_ok {w : CallWord} {i : Instr} (h : decode w = .ok i) :
    i.wf = true ∧ i.code = w.code ∧ formOfCode i.code = w.form := by
  have hrow := decode_readsRow w
  rw [h] at hrow
  obtain ⟨hwf, hcode, hform⟩ := hrow
  exact ⟨hwf, BitVec.eq_of_toNat_eq (hcode.trans (toNat_eq_group_index w.code).symm),
    (formOfCode_code i).trans hform⟩

/-- A rejected command call is an unknown command (R84). -/
theorem decode_command_error {w : CallWord} {e : Reject} (hform : w.form = .command) (h : decode w = .error e) :
    e = .unknownCommand := by
  have hrow := decode_readsRow w
  rw [h] at hrow
  exact hrow.mpr hform

/-- Settles O4: what each table answers, put together. -/
theorem decodedHasTableCode : Obligations.DecodedHasTableCode := fun _ _ => decode_ok

end Sys2Proof.Machine
end

section
/-! A command code outside the tables (O13, R84): steps 1 to 3 of R150, which end in `InvalidCommand`. -/

namespace Sys2Proof.Machine

/-- Step 1 of R150: a device that is not Attached. -/
theorem heldLive_of_not_live {s : State} {c : Ctx} (h : s.live? c.inst = none) :
    heldLive c s = refuse .deadInstance := by
  simp [heldLive, liveOf, h, refuse]

/-- Step 2 of R150: a token that is not the holder's. -/
theorem heldLive_of_not_holder {s : State} {c : Ctx} {l : Live} (hl : s.live? c.inst = some l)
    (hh : l.holder ≠ some c.token) : heldLive c s = programmingError .noToken := by
  simp [heldLive, liveOf_ok.mpr hl, hh]

section UnknownCommand

variable {s : State} {c : Ctx} {d : Device} {l : Live}

theorem unknownCommand_of_holds (h : Holds s c d l) :
    unknownCommand c s = .next (s.answer (.caller c.caller) (.error .invalidCommand)) := by
  simp [unknownCommand, heldLive_of_holds h, raises]

theorem unknownCommand_of_not_holder (hl : s.live? c.inst = some l) (hh : l.holder ≠ some c.token) :
    unknownCommand c s = .fault (.programmingError .noToken) := by
  simp [unknownCommand, heldLive_of_not_holder hl hh, programmingError]

theorem unknownCommand_of_not_live (h : s.live? c.inst = none) : unknownCommand c s = .refused .deadInstance := by
  simp [unknownCommand, heldLive_of_not_live h, refuse]

end UnknownCommand

/-- The step on a command call that is no operation of the table (R84). -/
theorem step_of_unknown_command {s : State} {r : Request} {rest : List Request} (hp : s.pending = r :: rest)
    (hform : r.call.form = .command) (hnone : ∀ i, decode r.call ≠ .ok i) :
    step s = unknownCommand r.call.ops.ctx { s with pending := rest, env := r.env } := by
  cases hd : decode r.call with
  | ok i => exact absurd hd (hnone i)
  | error e =>
    obtain rfl := decode_command_error hform hd
    exact step_of_reject hp hd

/-- Settles O13: taking the call leaves the device table, so the three checks see the device as it is before the step. -/
theorem unknownCommandCodesAreInvalid : Obligations.UnknownCommandCodesAreInvalid := by
  intro s r rest hp hform hnone
  rw [step_of_unknown_command hp hform hnone]
  exact ⟨fun _ _ hholds => unknownCommand_of_holds hholds, fun _ hl hh => unknownCommand_of_not_holder hl hh,
    fun hdead => unknownCommand_of_not_live hdead⟩

end Sys2Proof.Machine
end

section
/-! Transfers with an inaccessible buffer (O15, R85, R223): the two directions, and the commands that make them. -/

namespace Sys2Proof.Machine

/-- `CopyOut` to an inaccessible buffer (R9, R150 step 8). -/
theorem copyOut_of_inaccessible {s : State} (hbuf : s.env.bufOk = false) (caller : Nat) (r : Ret) :
    copyOut caller r s = raises caller .ioFault s := by
  simp [copyOut, hbuf]

/-- `CopyIn` from an inaccessible buffer (R9, R150 step 5): the rest of the operation is not reached. -/
theorem copyIn_of_inaccessible {s : State} (hbuf : s.env.bufOk = false) (caller : Nat) (k : Except Stop State) :
    copyIn caller s k = raises caller .ioFault s := by
  simp [copyIn, hbuf]

section Commands

variable {α : Type} {s : State} {c : Ctx} {d : Device} {l : Live} {known : DeviceConfig → Option α} {st : α}

/-- A command that returns a field of the Peripheral State. -/
theorem command_copyOut_inaccessible (h : Holds s c d l) (hst : known l.st = some st) (hbuf : s.env.bufOk = false)
    (priv : Bool) (r : α → Ret) :
    finish (command c priv false known s fun st => copyOut c.caller (r st) s) =
      .next (s.answer (.caller c.caller) (.error .ioFault)) := by
  simp [command_of_holds h hst, copyOut_of_inaccessible hbuf, raises]

/-- A privileged command that takes an argument, whatever it would do with it. -/
theorem command_copyIn_inaccessible (h : Holds s c d l) (hst : known l.st = some st) (hbuf : s.env.bufOk = false)
    (gated : Bool) (k : α → Except Stop State) :
    finish (command c true gated known s fun st => copyIn c.caller s (k st)) =
      .next (s.answer (.caller c.caller) (.error .ioFault)) := by
  simp [command_of_holds h hst, copyIn_of_inaccessible hbuf, raises]

end Commands

/-- `SW.ReadMasked` on a live Switch, in full (R179). -/
theorem readMasked_switch {s : State} {id : Nat} {d : Device} {l : Live} {sw : SwState}
    (hd : s.devices[id]? = some d) (hl : d.life = .attached l) (hst : l.st = .sw sw) :
    readMasked id sw s = .ok (s.env.swIn &&& sw.mask,
      { s with devices := s.devices.set id (d.withEvents [.read s.cfg.offSwData (.byte s.env.swIn)]) }) := by
  simp [readMasked, readRegister_switch hd hl hst, RegVal.toByte]

/-- `SW.GetValue` by the holder: its read, then the transfer of the result (R178). -/
theorem exec_swGetValue_of_holds {s : State} {c : Ctx} {d : Device} {l : Live} {sw : SwState} (h : Holds s c d l)
    (hst : l.st = .sw sw) (priv : Bool) :
    exec (.swGetValue c priv) s = finish (copyOut c.caller (.u8 (s.env.swIn &&& sw.mask))
      { s with devices := s.devices.set c.inst (d.withEvents [.read s.cfg.offSwData (.byte s.env.swIn)]) }) := by
  have hknown : l.st.sw? = some sw := by rw [hst]; rfl
  have ⟨hd, hlife, _⟩ := h
  simp [exec, execSwGetValue, command_of_holds h hknown, readMasked_switch hd hlife hst]

/-- Settles O15: every transfer fails alike, before an argument is used and after the read of `SW.GetValue`. -/
theorem inaccessibleBufferIsIOFault : Obligations.InaccessibleBufferIsIOFault := by
  intro s c d l h hbuf priv
  refine ⟨fun led hst v => ?_, fun rgb hst v => ?_, fun sw hst v => ?_⟩
  · have hknown : l.st.led? = some led := by rw [hst]; rfl
    exact ⟨command_copyOut_inaccessible h hknown hbuf priv _, command_copyOut_inaccessible h hknown hbuf priv _,
      command_copyIn_inaccessible h hknown hbuf true _, command_copyIn_inaccessible h hknown hbuf true _⟩
  · have hknown : l.st.rgb? = some rgb := by rw [hst]; rfl
    exact ⟨command_copyOut_inaccessible h hknown hbuf priv _, command_copyOut_inaccessible h hknown hbuf priv _,
      command_copyIn_inaccessible h hknown hbuf true _, command_copyIn_inaccessible h hknown hbuf true _⟩
  · have hknown : l.st.sw? = some sw := by rw [hst]; rfl
    refine ⟨command_copyOut_inaccessible h hknown hbuf priv _, command_copyIn_inaccessible h hknown hbuf true _, ?_⟩
    rw [exec_swGetValue_of_holds h hst, copyOut_of_inaccessible (by exact hbuf)]
    rfl

end Sys2Proof.Machine
end

section
/-! The digits of the read texts (O44, R87, R90): the model's cases by size are the digits of the number in its base. -/

namespace Sys2Proof.Machine

/-- The ASCII bytes of a number's digits in a base, most significant first. -/
def digitBytes (base n : Nat) : List Byte := (Nat.toDigits base n).map fun ch => BitVec.ofNat 8 ch.toNat

/-- The model's digit is that of the library, up to base 16. -/
theorem hexDigit_eq_digitChar {n : Nat} (h : n < 16) : BitVec.ofNat 8 n.digitChar.toNat = hexDigit n := by
  revert n; decide

theorem digitBytes_of_lt {base n : Nat} (hbase : base ≤ 16) (h : n < base) : digitBytes base n = [hexDigit n] := by
  simp [digitBytes, Nat.toDigits_of_lt_base h, hexDigit_eq_digitChar (h.trans_le hbase)]

theorem digitBytes_of_le {base n : Nat} (hone : 1 < base) (hbase : base ≤ 16) (h : base ≤ n) :
    digitBytes base n = digitBytes base (n / base) ++ [hexDigit (n % base)] := by
  have hmod : n % base < 16 := (Nat.mod_lt n (by omega)).trans_le hbase
  simp [digitBytes, Nat.toDigits_of_base_le hone h, hexDigit_eq_digitChar hmod]

/-- A byte has one or two hexadecimal digits (R87). -/
theorem hexText_eq_digitBytes (v : Byte) : hexText v = digitBytes 16 v.toNat := by
  have hv : v.toNat < 256 := v.isLt
  unfold hexText
  split
  case isTrue h => rw [digitBytes_of_lt (le_refl 16) h]
  case isFalse h =>
    rw [digitBytes_of_le (by decide) (le_refl 16) (by omega), digitBytes_of_lt (le_refl 16) (by omega)]
    rfl

/-- A byte has one, two or three decimal digits (R90). -/
theorem decText_eq_digitBytes (v : Byte) : decText v = digitBytes 10 v.toNat := by
  have hv : v.toNat < 256 := v.isLt
  unfold decText
  split
  case isTrue h => rw [digitBytes_of_lt (by decide) h]
  case isFalse h =>
    rw [digitBytes_of_le (by decide) (by decide) (by omega)]
    split
    case isTrue h2 => rw [digitBytes_of_lt (by decide) (by omega)]; rfl
    case isFalse h2 =>
      rw [digitBytes_of_le (by decide) (by decide) (by omega), digitBytes_of_lt (by decide) (by omega),
        Nat.div_div_eq_div_mul]
      rfl

/-- The shortest Switch text is one digit and the newline (R90). -/
theorem two_le_switchText_length (v : Byte) : 2 ≤ (switchText v).length := by
  have hpos : 0 < (Nat.toDigits 10 v.toNat).length := Nat.length_toDigits_pos
  simp only [switchText, decText_eq_digitBytes, digitBytes, List.length_append, List.length_map, List.length_singleton]
  omega

/-- The shortest RGB text has one digit for each channel (R87). -/
theorem twelve_le_colorText_length (c : ColorValue) : 12 ≤ (colorText c).length := by
  obtain ⟨hr, -⟩ := hexText_length c.r
  obtain ⟨hg, -⟩ := hexText_length c.g
  obtain ⟨hb, -⟩ := hexText_length c.b
  simp only [colorText, List.length_append, List.length_cons, List.length_nil]
  omega

/-- Settles O44, from the digits of a byte and the bounds of the lengths. -/
theorem readTextsHaveTheFormat : Obligations.ReadTextsHaveTheFormat := by
  refine ⟨fun v => ⟨hexText_eq_digitBytes v, ?_, two_le_switchText_length v, switchText_length_le v⟩,
    fun c => ⟨rfl, twelve_le_colorText_length c, colorText_length_le c⟩⟩
  rw [switchText, decText_eq_digitBytes, digitBytes]

end Sys2Proof.Machine
end

section
/-! Direct Register File calls on a live device (O22, O23, O25, R110 to R115): what a call of a declared register does,
in full, and which value a read finds. -/

namespace Sys2Proof.Machine

/-- A write of one cell changes that cell alone (R26, R55). -/
theorem wroteOnly_write (hw : Memory) (a : Nat) (v : RegVal) : WroteOnly hw (hw.write a v) a v :=
  ⟨memory_read_write_same hw a v, fun _ hb => memory_read_write_other hw v hb⟩

section RegisterValue

variable {s : State} {k : Kind} {a : Nat} {w : Width} {u : RegVal}

/-- The switch levels answer every read of a Switch (R34). -/
theorem registerValue_switch : registerValue s .sw a w = .ok (.byte s.env.swIn) := rfl

/-- Any other register with `READBACK = refuse` (R115). -/
theorem registerValue_of_refuse (hk : k ≠ .sw) (hrb : s.cfg.readback = .refuse) :
    registerValue s k a w = refuse .readback := by
  cases k with
  | sw => exact absurd rfl hk
  | led | rgb => simp [registerValue, hrb]

/-- An unwritten register with `READBACK = stored` (R115). -/
theorem registerValue_of_unwritten (hk : k ≠ .sw) (hrb : s.cfg.readback = .stored) (hu : s.hw.read a = none) :
    registerValue s k a w = refuse .unwritten := by
  cases k with
  | sw => exact absurd rfl hk
  | led | rgb => simp [registerValue, hrb, hu]

/-- A written register with `READBACK = stored`: its content where it has the width asked for (R115), else the draw. -/
theorem registerValue_of_written (hk : k ≠ .sw) (hrb : s.cfg.readback = .stored) (hu : s.hw.read a = some u) :
    registerValue s k a w = .ok (if u.width = w then u else .ofWord w s.env.overlaid) := by
  cases k with
  | sw => exact absurd rfl hk
  | led | rgb => simp [registerValue, hrb, hu]

end RegisterValue

section LiveDevice

variable {s : State} {w : Site} {d : Device} {l : Live} {offset : Nat} {width : Width}

/-- A direct write of a declared register (R111): one access, its barrier, the result. -/
theorem exec_rfWrite_of_declared (hd : s.devices[w.inst]? = some d) (hl : d.life = .attached l)
    (hdecl : (offset, width) ∈ declaredRegs s.cfg l.st.kind) (value : Word) :
    exec (.rfWrite w offset width value) s =
      .next (s.after w.inst (d.withEvents (writeEvents offset (.ofWord width value)))
        (s.hw.write (d.base + offset) (.ofWord width value)) (.caller w.caller) .ok) := by
  have hwrite := writeRegister_spec (v := .ofWord width value) hd hl (by rwa [ofWord_width])
  simp only [exec, execRfWrite, hwrite]
  rfl

/-- A direct masked write of a declared 8-bit register (R112). -/
theorem exec_rfWriteMasked8_of_declared (hd : s.devices[w.inst]? = some d) (hl : d.life = .attached l)
    (hdecl : (offset, .w8) ∈ declaredRegs s.cfg l.st.kind) (value mask : Byte) :
    exec (.rfWriteMasked8 w offset value mask) s =
      .next (s.after w.inst (d.withEvents (writeEvents offset (.byte (value &&& mask))))
        (s.hw.write (d.base + offset) (.byte (value &&& mask))) (.caller w.caller) .ok) := by
  have hwrite := writeRegister_spec (v := .byte (maskedByte value mask)) hd hl hdecl
  simp only [exec, execRfWriteMasked8, writeMasked8, hwrite]
  rfl

/-- A direct read of a declared register that holds a value for it (R110): one access, the value returned. -/
theorem exec_rfRead_of_value {v : RegVal} (hd : s.devices[w.inst]? = some d) (hl : d.life = .attached l)
    (hdecl : (offset, width) ∈ declaredRegs s.cfg l.st.kind)
    (hv : registerValue s l.st.kind (d.base + offset) width = .ok v) :
    exec (.rfRead w offset width) s =
      .next (s.after w.inst (d.withEvents [.read offset v]) s.hw (.caller w.caller) v.toRet) := by
  have hread : readRegister w.inst offset width s =
      .ok (v, { s with devices := s.devices.set w.inst (d.withEvents [.read offset v]) }) := by
    simp [readRegister, hd, hl, declared_iff.mpr hdecl, hv, State.modifyDevice, modify_eq_set hd]
  simp only [exec, execRfRead, hread]
  rfl

/-- A direct read of a declared register whose value is refused ends in that refusal (R115). -/
theorem exec_rfRead_of_refused {r : Refusal} (hd : s.devices[w.inst]? = some d) (hl : d.life = .attached l)
    (hdecl : (offset, width) ∈ declaredRegs s.cfg l.st.kind)
    (hv : registerValue s l.st.kind (d.base + offset) width = refuse r) :
    exec (.rfRead w offset width) s = .refused r := by
  have hread : readRegister w.inst offset width s = refuse r := by
    simp [readRegister, hd, hl, declared_iff.mpr hdecl, hv, refuse]
  simp [exec, execRfRead, hread, refuse]

/-- A direct barrier on an Attached device (R113). -/
theorem exec_rfBarrier_of_live (hd : s.devices[w.inst]? = some d) (hl : d.life = .attached l) :
    exec (.rfBarrier w) s = .next (s.after w.inst (d.withEvents [.barrier]) s.hw (.caller w.caller) .ok) := by
  simp only [exec, execRfBarrier, live?_of_device hd hl, barrier_eq, State.modifyDevice, modify_eq_set hd]
  rfl

end LiveDevice

/-- A direct barrier on a device that is not Attached (R254, R65). -/
theorem exec_rfBarrier_of_not_live {s : State} {w : Site} (h : s.live? w.inst = none) :
    exec (.rfBarrier w) s = .fault (.programmingError .lifetime) := by
  simp [exec, execRfBarrier, h, programmingError]

/-- Settles O22: each write puts its value into the one cell; a zero-extended `u8` is the byte it came from. -/
theorem registerWriteLeavesValue : Obligations.RegisterWriteLeavesValue := by
  intro s w d l offset v b m hd hl
  refine ⟨fun hdecl => ⟨_, exec_rfWrite_of_declared hd hl hdecl v, wroteOnly_write ..⟩,
    fun hdecl => ⟨?_, _, exec_rfWriteMasked8_of_declared hd hl hdecl b m, wroteOnly_write ..⟩⟩
  have hbyte : RegVal.ofWord .w8 (b.setWidth 32) = .byte b := by simp [RegVal.ofWord]
  have hwrite := exec_rfWrite_of_declared hd hl hdecl (b.setWidth 32)
  rw [hbyte] at hwrite
  exact ⟨_, hwrite, wroteOnly_write ..⟩

/-- Settles O23, by what the register holds: switch levels, no value, or a written cell of either width. -/
theorem registerReadReturnsValue : Obligations.RegisterReadReturnsValue := by
  intro s w d l offset hd hl
  refine ⟨fun sw hst => ?switch, fun hk => ⟨fun width hdecl => ⟨fun hrb => ?refused, fun hrb hu => ?unwritten⟩,
    fun v hdecl hrb hu => ?word, fun v hdecl hrb hu => ?byte, fun v hdecl hrb hu => ?wordOverByte,
    fun v hdecl hrb hu => ?byteOverWord⟩⟩
  case switch =>
    have hk : l.st.kind = .sw := by rw [hst]; rfl
    exact exec_rfRead_of_value hd hl (by simp [hk, declaredRegs]) (by rw [hk]; exact registerValue_switch)
  case refused => exact exec_rfRead_of_refused hd hl hdecl (registerValue_of_refuse hk hrb)
  case unwritten => exact exec_rfRead_of_refused hd hl hdecl (registerValue_of_unwritten hk hrb hu)
  case word | byte | wordOverByte | byteOverWord =>
    exact exec_rfRead_of_value hd hl hdecl (registerValue_of_written hk hrb hu)

/-- Settles O25: the barrier on a live device, and on one that is not Attached. -/
theorem barrierChangesNothing : Obligations.BarrierChangesNothing :=
  ⟨fun _ _ _ _ => exec_rfBarrier_of_live, fun _ _ => exec_rfBarrier_of_not_live⟩

end Sys2Proof.Machine
end

section
/-! The Color Codec on colours (O6, O7, O8, R130 to R132): the two functions as numbers, from which the round trips are
arithmetic, and the two operations that return them. -/

namespace Sys2Proof.Machine

/-- Eight bits of a word from place `n` on, as a number. -/
theorem byteField_toNat (x : Word) (n : Nat) :
    (((x >>> n) &&& 0xFF#32).setWidth 8).toNat = x.toNat / 2 ^ n % 256 := by
  have hmask : x.toNat >>> n &&& 255 = x.toNat >>> n % 256 := Nat.and_two_pow_sub_one_eq_mod _ 8
  rw [BitVec.toNat_setWidth, BitVec.toNat_and, BitVec.toNat_ushiftRight]
  change (x.toNat >>> n &&& 255) % 256 = _
  rw [hmask, Nat.mod_mod, Nat.shiftRight_eq_div_pow]

@[simp] theorem decodeColor_r_toNat (packed : Word) : (decodeColor packed).r.toNat = packed.toNat / 65536 % 256 :=
  byteField_toNat packed 16

@[simp] theorem decodeColor_g_toNat (packed : Word) : (decodeColor packed).g.toNat = packed.toNat / 256 % 256 :=
  byteField_toNat packed 8

@[simp] theorem decodeColor_b_toNat (packed : Word) : (decodeColor packed).b.toNat = packed.toNat % 256 := by
  simpa [decodeColor] using byteField_toNat packed 0

/-- A byte moved up by at most 16 places keeps all its bits in a word. -/
theorem shiftedByte_toNat (v : Byte) {n : Nat} (hn : n ≤ 16) : (v.setWidth 32 <<< n).toNat = 2 ^ n * v.toNat := by
  have hv : v.toNat < 256 := v.isLt
  have hpow : 2 ^ n ≤ 2 ^ 16 := Nat.pow_le_pow_right (by omega) hn
  have hfit : 2 ^ n * v.toNat < 4294967296 := by
    calc 2 ^ n * v.toNat ≤ 2 ^ 16 * 255 := Nat.mul_le_mul hpow (by omega)
      _ < 4294967296 := by omega
  have hmod : v.toNat % 4294967296 = v.toNat := Nat.mod_eq_of_lt (by omega)
  rw [BitVec.toNat_shiftLeft, BitVec.toNat_setWidth, hmod, Nat.shiftLeft_eq, Nat.mul_comm]
  exact Nat.mod_eq_of_lt hfit

/-- The three fields do not overlap, so their union is their sum (R131). -/
@[simp] theorem encodeColor_toNat (c : ColorValue) :
    (encodeColor c).toNat = c.r.toNat * 65536 + c.g.toNat * 256 + c.b.toNat := by
  have hg : c.g.toNat < 256 := c.g.isLt
  have hb : c.b.toNat < 256 := c.b.isLt
  have hlow : 2 ^ 8 * c.g.toNat ||| c.b.toNat = 2 ^ 8 * c.g.toNat + c.b.toNat :=
    (Nat.two_pow_add_eq_or_of_lt hb _).symm
  have hhigh : 2 ^ 16 * c.r.toNat ||| (2 ^ 8 * c.g.toNat + c.b.toNat) =
      2 ^ 16 * c.r.toNat + (2 ^ 8 * c.g.toNat + c.b.toNat) := (Nat.two_pow_add_eq_or_of_lt (by omega) _).symm
  have hbyte : (c.b.setWidth 32).toNat = c.b.toNat := by simpa using shiftedByte_toNat c.b (Nat.zero_le 16)
  rw [encodeColor, BitVec.toNat_or, BitVec.toNat_or, shiftedByte_toNat _ (by omega), shiftedByte_toNat _ (by omega),
    hbyte, Nat.or_assoc, hlow, hhigh]
  omega

/-- Two colours with the same channels as numbers are one colour. -/
theorem colorValue_eq_of_toNat {c e : ColorValue} (hr : c.r.toNat = e.r.toNat) (hg : c.g.toNat = e.g.toNat)
    (hb : c.b.toNat = e.b.toNat) : c = e := by
  cases c
  cases e
  exact congr (congrArg₂ _ (BitVec.eq_of_toNat_eq hr) (BitVec.eq_of_toNat_eq hg)) (BitVec.eq_of_toNat_eq hb)

/-- The first round trip of R132. -/
theorem decodeColor_encodeColor (c : ColorValue) : decodeColor (encodeColor c) = c := by
  have hr : c.r.toNat < 256 := c.r.isLt
  have hg : c.g.toNat < 256 := c.g.isLt
  have hb : c.b.toNat < 256 := c.b.isLt
  apply colorValue_eq_of_toNat
  · rw [decodeColor_r_toNat, encodeColor_toNat]; omega
  · rw [decodeColor_g_toNat, encodeColor_toNat]; omega
  · rw [decodeColor_b_toNat, encodeColor_toNat]; omega

/-- What is packed again after a decode is the word without its bits 31:24 (R132). -/
theorem encodeColor_decodeColor_toNat (x : Word) : (encodeColor (decodeColor x)).toNat = x.toNat % 0x1000000 := by
  rw [encodeColor_toNat, decodeColor_r_toNat, decodeColor_g_toNat, decodeColor_b_toNat]
  omega

/-- An operation that only returns a result adds that result and changes nothing else. -/
theorem finish_returns (caller : Nat) (r : Ret) (s : State) :
    finish (returns caller r s) = .next (s.answer (.caller caller) r) := rfl

/-- Settles O6: each channel is a field of eight bits. -/
theorem decodeColorTakesChannels : Obligations.DecodeColorTakesChannels :=
  ⟨fun x => ⟨decodeColor_r_toNat x, decodeColor_g_toNat x, decodeColor_b_toNat x⟩,
    fun s caller packed => ⟨rfl, finish_returns caller (.color (decodeColor packed)) s⟩⟩

/-- Settles O7: disjoint fields add up. -/
theorem encodeColorPacksChannels : Obligations.EncodeColorPacksChannels :=
  ⟨encodeColor_toNat, fun s caller c => ⟨rfl, finish_returns caller (.u32 (encodeColor c)) s⟩⟩

/-- Settles O8: both directions as numbers; the second keeps the low 24 bits. -/
theorem colorRoundTrips : Obligations.ColorRoundTrips := by
  refine ⟨decodeColor_encodeColor, fun x hx => ?small, fun x => ?masked⟩ <;> apply BitVec.eq_of_toNat_eq
  case small => rw [encodeColor_decodeColor_toNat, Nat.mod_eq_of_lt (by omega)]
  case masked =>
    rw [encodeColor_decodeColor_toNat, BitVec.toNat_and]
    exact (Nat.and_two_pow_sub_one_eq_mod _ 24).symm

end Sys2Proof.Machine
end

section
/-! The duty of a channel (O9, O10, O11, R133 to R139): the 32-bit product is the exact number, so each law is one of
`period / maxDivisor / 256 * channel` over the naturals. -/

namespace Sys2Proof.Machine

/-! ## The scale -/

@[simp] theorem dutyScale_toNat (p d : Word) : (dutyScale p d).toNat = p.toNat / d.toNat / 256 := by
  simp [dutyScale, channelSteps]

/-- The largest scale (R134). -/
theorem scale_le (p d : Word) : p.toNat / d.toNat / 256 ≤ 16777215 := by
  have hp : p.toNat < 4294967296 := p.isLt
  have hdiv : p.toNat / d.toNat ≤ p.toNat := Nat.div_le_self ..
  omega

/-- The scale is the period divided by `256 * maxDivisor` in one step. -/
theorem scale_eq_div (p d : Nat) : p / d / 256 = p / (256 * d) := by rw [Nat.div_div_eq_div_mul, Nat.mul_comm d]

/-- The scale is 0 where the period is below `256 * maxDivisor` (R136). -/
theorem scale_eq_zero {p d : Nat} (h : p < 256 * d) : p / d / 256 = 0 := by rw [scale_eq_div, Nat.div_eq_of_lt h]

/-- The scale gives the period back up to what the divisions dropped. -/
theorem scale_mul_le (p d : Nat) : p / d / 256 * (256 * d) ≤ p := by rw [scale_eq_div]; exact Nat.div_mul_le_self ..

/-- Nothing is dropped where the period is a multiple of `256 * maxDivisor`. -/
theorem scale_mul_of_dvd {p d : Nat} (h : 256 * d ∣ p) : p / d / 256 * (256 * d) = p := by
  rw [scale_eq_div, Nat.div_mul_cancel h]

/-! ## The duty -/

/-- The duty is at most that of the full channel (R139). -/
theorem exactDuty_le_full (p : Word) (c : Byte) (d : Word) : exactDuty p c d ≤ 255 * (p.toNat / d.toNat / 256) := by
  have hc : c.toNat < 256 := c.isLt
  rw [exactDuty, Nat.mul_comm]
  exact Nat.mul_le_mul_right _ (by omega)

/-- The largest duty (R134). -/
theorem exactDuty_le (p : Word) (c : Byte) (d : Word) : exactDuty p c d ≤ 4278189825 :=
  calc exactDuty p c d ≤ 255 * (p.toNat / d.toNat / 256) := exactDuty_le_full p c d
    _ ≤ 255 * 16777215 := Nat.mul_le_mul_left _ (scale_le p d)
    _ = 4278189825 := rfl

/-- The product of 32 bits does not wrap (R134). -/
theorem dutyScale_mul_toNat (p : Word) (c : Byte) (d : Word) :
    (dutyScale p d * c.setWidth 32).toNat = exactDuty p c d := by
  have hc : c.toNat < 256 := c.isLt
  have hle : exactDuty p c d ≤ 4278189825 := exactDuty_le p c d
  have hmod : c.toNat % 4294967296 = c.toNat := Nat.mod_eq_of_lt (by omega)
  have hexact : p.toNat / d.toNat / 256 * c.toNat = exactDuty p c d := rfl
  simp only [BitVec.toNat_mul, BitVec.toNat_setWidth, dutyScale_toNat, Nat.reducePow, hmod, hexact]
  exact Nat.mod_eq_of_lt (by omega)

/-- What `scaleDuty` returns, as a number (R133). -/
theorem scaleDuty_toNat {p d w : Word} {c : Byte} (hd : d ≠ 0) (h : scaleDuty p c d = .ok w) :
    w.toNat = exactDuty p c d := by
  rw [scaleDuty_of_pos c hd] at h
  cases h
  exact dutyScale_mul_toNat p c d

/-- The operation with a divisor above 0. -/
theorem exec_codecScaleDuty_of_pos {d : Word} (hd : d ≠ 0) (caller : Nat) (p : Word) (c : Byte) (s : State) :
    exec (.codecScaleDuty caller p c d) s =
      .next (s.answer (.caller caller) (.u32 (dutyScale p d * c.setWidth 32))) := by
  simp only [exec, execCodecScaleDuty, scaleDuty_of_pos c hd]
  rfl

/-- Settles O9: the word returned is the product, and the product is the exact number. -/
theorem scaleDutyIsExact : Obligations.ScaleDutyIsExact := by
  refine ⟨fun s caller p c d => ⟨rfl, fun hd => ?_, rfl⟩, fun cfg hwf hzero => ?_, by decide⟩
  · have hle : exactDuty p c d ≤ 4278189825 := exactDuty_le p c d
    exact ⟨hle, by omega, scale_le p d, _, dutyScale_mul_toNat p c d, scaleDuty_of_pos c hd,
      exec_codecScaleDuty_of_pos hd caller p c s⟩
  · obtain ⟨-, hpos, -⟩ := hwf
    simp [hzero] at hpos

/-- Settles O10: the laws of `scale * channel` in the channel, and of the scale in the period. -/
theorem scaleDutyLaws : Obligations.ScaleDutyLaws := by
  intro p d a b wa wb hd ha hb
  have hpos : 0 < d.toNat := by rw [Nat.pos_iff_ne_zero]; exact fun h => hd (BitVec.eq_of_toNat_eq h)
  rw [scaleDuty_toNat hd ha, scaleDuty_toNat hd hb, exactDuty, exactDuty]
  refine ⟨fun hab => Nat.mul_le_mul_left _ hab, fun hab => ⟨fun hlt => ?positive, fun hs => ?strict⟩,
    fun h => ?collapse, ?threshold, ?black, ?noPeriod, ?one, ?full⟩
  case positive => exact Nat.pos_of_lt_mul_right hlt
  case strict => exact Nat.mul_lt_mul_of_pos_left hab hs
  case collapse => rw [scale_eq_zero h, Nat.zero_mul]
  case threshold => exact Nat.div_lt_iff_lt_mul hpos
  case black => rintro rfl; simp
  case noPeriod => rintro rfl; simp
  case one => rintro rfl; simp
  case full =>
    rintro rfl
    have hfull : p.toNat / d.toNat / 256 * (255 : Byte).toNat = 255 * (p.toNat / d.toNat / 256) := Nat.mul_comm ..
    rw [hfull]
    exact ⟨rfl, fun hs => by omega⟩

/-- Settles O11: the full duty is 255 of the 256 parts that the period holds. -/
theorem dutyStaysBelowPeriod : Obligations.DutyStaysBelowPeriod := by
  intro p d c w hp hd hw
  have hne : d ≠ 0 := by rintro rfl; simp at hd
  have hdiv : p.toNat / d.toNat ≤ p.toNat := Nat.div_le_self ..
  rw [scaleDuty_toNat hne hw]
  refine ⟨exactDuty_le_full p c d, by omega, ?fraction, fun hc hdvd => ?reached⟩
  case fraction =>
    calc exactDuty p c d * (256 * d.toNat)
        ≤ 255 * (p.toNat / d.toNat / 256) * (256 * d.toNat) := Nat.mul_le_mul_right _ (exactDuty_le_full p c d)
      _ = 255 * (p.toNat / d.toNat / 256 * (256 * d.toNat)) := Nat.mul_assoc ..
      _ ≤ 255 * p.toNat := Nat.mul_le_mul_left _ (scale_mul_le ..)
  case reached =>
    have hfull : exactDuty p c d = 255 * (p.toNat / d.toNat / 256) := by rw [hc]; exact Nat.mul_comm ..
    rw [hfull, Nat.mul_assoc, scale_mul_of_dvd hdvd]

end Sys2Proof.Machine
end

section
/-! The common command procedure (O12, R150 steps 1 to 3): every command is one call of it, and the three checks. -/

namespace Sys2Proof.Machine

section Checks

variable {α : Type} {s : State} {c : Ctx} {known : DeviceConfig → Option α}

/-- Step 1 of R150: a device that is not Attached. -/
theorem command_of_not_live (h : s.live? c.inst = none) (priv gated : Bool) (k : α → Except Stop State) :
    command c priv gated known s k = refuse .deadInstance := by
  simp [command, heldLive_of_not_live h, refuse]

/-- Step 2 of R150: a token that is not the holder's. -/
theorem command_of_not_holder {l : Live} (hl : s.live? c.inst = some l) (hh : l.holder ≠ some c.token)
    (priv gated : Bool) (k : α → Except Stop State) :
    command c priv gated known s k = programmingError .noToken := by
  simp [command, heldLive_of_not_holder hl hh, programmingError]

/-- Step 3 of R150: a code that the device's kind does not know (R84), before the privilege is looked at. -/
theorem command_of_unknown {d : Device} {l : Live} (h : Holds s c d l) (hst : known l.st = none)
    (priv gated : Bool) (k : α → Except Stop State) :
    command c priv gated known s k = raises c.caller .invalidCommand s := by
  simp [command, heldLive_of_holds h, hst]

end Checks

/-- Every command is one call of the common procedure, gated as R229 says, on the Peripheral State of its own kind. -/
theorem exec_command {i : Instr} {c : Ctx} {k : Kind} {p : Bool} (hi : commandOf i = some (c, k, p)) (s : State) :
    ∃ (α : Type) (known : DeviceConfig → Option α) (rest : α → Except Stop State),
      (∀ st x, known st = some x → st.kind = k) ∧ exec i s = finish (command c p (gated i) known s rest) := by
  cases i with
  | ledGetInit | ledSetInit | ledGetMask | ledSetMask | ledReset =>
    cases hi
    exact ⟨LedState, DeviceConfig.led?, _, fun _ _ => kind_of_led?, rfl⟩
  | rgbGetValue | rgbSetValue | rgbGetPeriod | rgbSetPeriod =>
    cases hi
    exact ⟨RgbState, DeviceConfig.rgb?, _, fun _ _ => kind_of_rgb?, rfl⟩
  | swGetMask | swSetMask | swGetValue =>
    cases hi
    exact ⟨SwState, DeviceConfig.sw?, _, fun _ _ => kind_of_sw?, rfl⟩
  | _ => cases hi

/-- Settles O12: the checks are those of the one procedure that every command calls. -/
theorem commandChecksComeInOrder : Obligations.CommandChecksComeInOrder := by
  intro s i c k p hi
  obtain ⟨α, known, rest, hkind, hexec⟩ := exec_command hi s
  rw [hexec]
  refine ⟨fun hdead => ?dead, fun l hl hh => ?foreign, fun d l hholds hne => ?unknown⟩
  case dead => rw [command_of_not_live hdead]; rfl
  case foreign => rw [command_of_not_holder hl hh]; rfl
  case unknown =>
    have hnone : known l.st = none := Option.eq_none_iff_forall_ne_some.mpr fun x hx => hne (hkind _ x hx)
    rw [command_of_unknown hholds hnone]
    rfl

end Sys2Proof.Machine
end

section
/-! `RGB.SetPeriod` and `RGB.SetValue` by the privileged holder (O18, O19, O20, R152 to R157): what each does in full,
what the registers then hold, and what the PWM outputs show of them. -/

namespace Sys2Proof.Machine

/-- A privileged command whose argument is transferred (R150 step 5): what it then does with it. -/
theorem command_copyIn_accessible {α : Type} {s : State} {c : Ctx} {d : Device} {l : Live}
    {known : DeviceConfig → Option α} {st : α} (h : Holds s c d l) (hst : known l.st = some st)
    (hbuf : s.env.bufOk = true) (gated : Bool) (k : α → Except Stop State) :
    command c true gated known s (fun st => copyIn c.caller s (k st)) = k st := by
  simp [command_of_holds h hst, copyIn, hbuf]

/-! ## The period -/

/-- `RGB.SetPeriod` with its argument transferred (R154). -/
theorem exec_rgbSetPeriod_of_holds {s : State} {c : Ctx} {d : Device} {l : Live} {rgb : RgbState} (h : Holds s c d l)
    (hbuf : s.env.bufOk = true) (hst : l.st = .rgb rgb) (p : Word) :
    exec (.rgbSetPeriod c true p) s = finish (if p = 0 then setPeriodZero c.caller s
      else returns c.caller .ok (s.setSt c.inst (.rgb { rgb with period := p }))) := by
  have hknown : l.st.rgb? = some rgb := by rw [hst]; rfl
  exact congrArg finish (command_copyIn_accessible h hknown hbuf true _)

/-- Settles O18: a period of 0 is left to the configuration, and no way stores it. -/
theorem zeroPeriodIsNotStored : Obligations.ZeroPeriodIsNotStored := by
  intro s c d l rgb h hbuf hst
  rw [exec_rgbSetPeriod_of_holds h hbuf hst, if_pos rfl]
  refine ⟨fun hcfg => ?refused, fun hcfg => ?invalid⟩
  case refused => rw [setPeriodZero, hcfg]; rfl
  case invalid => rw [setPeriodZero, hcfg]; rfl

/-! ## The writes of a colour change -/

/-- The divisor of R6 is above 0. -/
theorem maxDivisor_ne_zero {cfg : Config} (h : cfg.wf) : cfg.maxDivisor ≠ 0 := by
  obtain ⟨-, hpos, -⟩ := h
  intro hzero
  simp [hzero] at hpos

/-- The 32-bit product is the exact duty (R133, R134). -/
theorem dutyWord_eq (p : Word) (ch : Byte) (m : Word) : dutyWord p ch m = .word (dutyScale p m * ch.setWidth 32) := by
  rw [dutyWord, ← dutyScale_mul_toNat, BitVec.ofNat_toNat, BitVec.setWidth_eq]

/-- `RGB.ApplyColor` is the four writes of R157, then the colour. -/
theorem applyColor_eq_colorWrites {s : State} {id : Nat} {d : Device} {l : Live} {rgb : RgbState} (c : ColorValue)
    (hd : s.devices[id]? = some d) (hl : d.life = .attached l) (hst : l.st = .rgb rgb) (hwf : s.cfg.wf) :
    applyColor id rgb c s =
      .ok ((s.wrote id d (colorWrites s.cfg rgb.period c)).setSt id (.rgb { rgb with color := c })) := by
  simp only [applyColor_spec c hd hl hst (maxDivisor_ne_zero hwf), colorWrites, dutyWord_eq]

/-- A chain of writes to a live device, then another Peripheral State. -/
theorem setSt_wrote {s : State} {id : Nat} {d : Device} {l : Live} (hd : s.devices[id]? = some d)
    (hl : d.life = .attached l) (ws : List (Nat × RegVal)) (st : DeviceConfig) :
    (s.wrote id d ws).setSt id st = { s with
      hw := writeAll d.base ws s.hw
      devices := s.devices.set id ((d.withLive { l with st }).withEvents (eventsOf ws)) } := by
  have hd' : (s.wrote id d ws).devices[id]? = some (d.withEvents (eventsOf ws)) := get_set_self hd _
  rw [setSt_of_device hd' hl, withEvents_withLive]
  simp [State.wrote]

/-- `RGB.SetValue` with its argument transferred, in full (R152). -/
theorem exec_rgbSetValue_of_holds {s : State} {c : Ctx} {d : Device} {l : Live} {rgb : RgbState} (h : Holds s c d l)
    (hbuf : s.env.bufOk = true) (hst : l.st = .rgb rgb) (hwf : s.cfg.wf) (packed : Word) :
    exec (.rgbSetValue c true packed) s = .next (s.after c.inst
      ((d.withLive { l with st := .rgb ⟨decodeColor packed, rgb.period⟩ }).withEvents
        (colorEvents s.cfg rgb.period (decodeColor packed)))
      (writeAll d.base (colorWrites s.cfg rgb.period (decodeColor packed)) s.hw) (.caller c.caller) .ok) := by
  have hknown : l.st.rgb? = some rgb := by rw [hst]; rfl
  have ⟨hd, hlife, _⟩ := h
  have hcopy := congrArg finish (command_copyIn_accessible h hknown hbuf true
    fun rgb => (applyColor c.inst rgb (decodeColor packed) s).bind (returns c.caller .ok))
  rw [applyColor_eq_colorWrites _ hd hlife hst hwf, setSt_wrote hd hlife] at hcopy
  exact hcopy

/-- The four registers of a PWM block stand apart (R6). -/
theorem offsets_differ {cfg : Config} (h : cfg.wf) :
    cfg.offDutyR ≠ cfg.offDutyG ∧ cfg.offDutyR ≠ cfg.offDutyB ∧ cfg.offDutyR ≠ cfg.offPeriod ∧
      cfg.offDutyG ≠ cfg.offDutyB ∧ cfg.offDutyG ≠ cfg.offPeriod ∧ cfg.offDutyB ≠ cfg.offPeriod := by
  obtain ⟨-, -, hdiff, -⟩ := h
  simpa [and_assoc] using hdiff

/-- What the four writes leave: each register its value, and every other address. -/
theorem colorWritten_writeAll {cfg : Config} (hwf : cfg.wf) (base : Nat) (p : Word) (c : ColorValue) (hw : Memory) :
    ColorWritten cfg base p c hw (writeAll base (colorWrites cfg p c) hw) := by
  obtain ⟨hrg, hrb, hrp, hgb, hgp, hbp⟩ := offsets_differ hwf
  refine ⟨?r, ?g, ?b, ?p, fun a ha => ?other⟩
  case r => exact writeAll_read_last (ws := []) hw (by simp [hrg, hrb, hrp])
  case g => exact writeAll_read_last (ws := [_]) hw (by simp [hgb, hgp])
  case b => exact writeAll_read_last (ws := [_, _]) hw (by simp [hbp])
  case p => exact writeAll_read_last (ws := [_, _, _]) hw (by simp)
  case other => exact writeAll_read_other hw (by simpa [colorWrites] using ha)

/-! ## What the outputs see on the way -/

/-- The contents that the outputs see of an operation with the events `es` on its device. -/
theorem contentsDuring_after {s : State} {id : Nat} {d : Device} (hd : s.devices[id]? = some d) (l : Live)
    (es : List BusEvent) (hw : Memory) (a : Agent) (r : Ret) :
    contentsDuring s (s.after id ((d.withLive l).withEvents es) hw a r) id = contentsAfter d.base s.hw es := by
  have he : (s.after id ((d.withLive l).withEvents es) hw a r).devices[id]? = some ((d.withLive l).withEvents es) :=
    get_set_self hd _
  have hdrop : ((d.withLive l).withEvents es).events.drop d.events.length = es := List.drop_left
  simp only [contentsDuring, hd, he, hdrop]

/-- What a PWM block shows during an operation. -/
theorem pwmOutputsDuring_of_rgb {s : State} {id : Nat} {d : Device} (hd : s.devices[id]? = some d)
    (hk : d.kind = .rgb) (t : State) (ch : Channel) :
    pwmOutputsDuring s t id ch = (contentsDuring s t id).map (pwmAt s.cfg d.base ch) := by
  simp [pwmOutputsDuring, hd, hk]

/-- What a PWM block shows in a state. -/
theorem pwmOutput_of_rgb {s : State} {id : Nat} {d : Device} (hd : s.devices[id]? = some d) (hk : d.kind = .rgb)
    (ch : Channel) : pwmOutput s id ch = pwmAt s.cfg d.base ch s.hw := by
  simp [pwmOutput, hd, hk]

/-- A 32-bit register after a write of a 32-bit value. -/
theorem word?_write (m : Memory) (a b : Nat) (v : Word) :
    (m.write a (.word v)).word? b = if b = a then some v else m.word? b := by
  unfold Memory.word?
  rw [memory_read_write]
  by_cases h : b = a
  · simp [h]
  · simp [h]

/-- The mixtures of R265: each write changes the view of the one register it reaches, since the offsets differ (R6). -/
theorem mixedOutputs_colorEvents {cfg : Config} (hwf : cfg.wf) (base : Nat) (p : Word) (c : ColorValue) (hw : Memory) :
    MixedOutputs cfg base p c hw fun ch => (contentsAfter base hw (colorEvents cfg p c)).map (pwmAt cfg base ch) := by
  obtain ⟨hrg, hrb, hrp, hgb, hgp, hbp⟩ := offsets_differ hwf
  rintro _ _ _ _ rfl rfl rfl rfl _ _ _ _ rfl rfl rfl rfl
  refine ⟨?_, ?_, ?_⟩ <;>
    simp [colorEvents, colorWrites, writeEvents, dutyWord, contentsAfter, pwmAt, dutyOffset, word?_write, hrg, hrb, hrp,
      hgb, hgp, hbp, Ne.symm hrg, Ne.symm hrb, Ne.symm hrp, Ne.symm hgb, Ne.symm hgp, Ne.symm hbp]

/-- Settles O19: the next state is that of the four writes; the contents between are those its events pass through. -/
theorem setValueProgramsDuties : Obligations.SetValueProgramsDuties := by
  intro s c d l rgb packed h hbuf hst hwf
  have ⟨hd, hlife, _⟩ := h
  have hk : d.kind = .rgb := by rw [kind_of_life hlife, hst]; rfl
  refine ⟨_, _, exec_rgbSetValue_of_holds h hbuf hst hwf packed, rfl, colorWritten_writeAll hwf .., ?passes, ?mixed⟩
  case passes =>
    rw [contentsDuring_after hd]
    exact contentsAfter_eventsOf ..
  case mixed =>
    simp only [funext (pwmOutputsDuring_of_rgb hd hk _), contentsDuring_after hd]
    exact mixedOutputs_colorEvents hwf d.base rgb.period (decodeColor packed) s.hw

/-! ## What the outputs show afterwards -/

/-- The channel of a colour that a PWM output shows. -/
def channelOf (c : ColorValue) (ch : Channel) : Byte :=
  match ch with
  | .r => c.r
  | .g => c.g
  | .b => c.b

/-- Where an output is defined (R38). -/
theorem pwmFraction_eq_some {duty period : Option Word} {x y : Nat} : pwmFraction duty period = some (x, y) ↔
    ∃ v w, duty = some v ∧ period = some w ∧ 0 < w.toNat ∧ v.toNat ≤ w.toNat ∧ x = v.toNat ∧ y = w.toNat := by
  cases duty with
  | none => simp [pwmFraction]
  | some v =>
    cases period with
    | none => simp [pwmFraction]
    | some w => simp [pwmFraction, and_assoc, eq_comm]

/-- The 32-bit content of a register is the word that a read of it finds (R26). -/
theorem word?_eq_some {m : Memory} {a : Nat} {v : Word} : m.word? a = some v ↔ m.read a = some (.word v) := by
  unfold Memory.word?
  split
  · rename_i h; simp [h]
  · rename_i h; simpa using h v

/-- The duty of a period above 0 is below it (R139). -/
theorem exactDuty_lt_period {p : Word} (hp : p ≠ 0) (c : Byte) (m : Word) : exactDuty p c m < p.toNat := by
  have hpos : 0 < p.toNat := by rw [Nat.pos_iff_ne_zero]; exact fun h => hp (BitVec.eq_of_toNat_eq h)
  have hfull : exactDuty p c m ≤ 255 * (p.toNat / m.toNat / 256) := exactDuty_le_full p c m
  have hdiv : p.toNat / m.toNat ≤ p.toNat := Nat.div_le_self ..
  omega

/-- The duty register of each channel after a colour change. -/
theorem read_duty_of_colorWritten {cfg : Config} {base : Nat} {p : Word} {c : ColorValue} {hw hw' : Memory}
    (h : ColorWritten cfg base p c hw hw') (ch : Channel) :
    hw'.read (base + dutyOffset cfg ch) = some (dutyWord p (channelOf c ch) cfg.maxDivisor) := by
  obtain ⟨hr, hg, hb, -⟩ := h
  cases ch with
  | r => exact hr
  | g => exact hg
  | b => exact hb

/-- Every PWM output after a colour change with a period above 0 (R155). -/
theorem pwmAt_of_colorWritten {cfg : Config} {base : Nat} {p : Word} {c : ColorValue} {hw hw' : Memory}
    (h : ColorWritten cfg base p c hw hw') (hp : p ≠ 0) (ch : Channel) :
    pwmAt cfg base ch hw' = some (exactDuty p (channelOf c ch) cfg.maxDivisor, p.toNat) := by
  have hlt : exactDuty p (channelOf c ch) cfg.maxDivisor < p.toNat := exactDuty_lt_period hp ..
  have hduty := word?_eq_some.mpr (read_duty_of_colorWritten h ch)
  have hnat : (BitVec.ofNat 32 (exactDuty p (channelOf c ch) cfg.maxDivisor)).toNat =
      exactDuty p (channelOf c ch) cfg.maxDivisor :=
    (BitVec.toNat_ofNat ..).trans (Nat.mod_eq_of_lt (hlt.trans p.isLt))
  obtain ⟨-, -, -, hperiod, -⟩ := h
  exact pwmFraction_eq_some.mpr
    ⟨_, p, hduty, word?_eq_some.mpr hperiod, by omega, by omega, hnat.symm, rfl⟩

/-- Every PWM output in the state after `RGB.SetValue` with a period above 0 (R155). -/
theorem pwmOutput_of_setValue {s t : State} {c : Ctx} {d : Device} {l : Live} {rgb : RgbState} {packed : Word}
    (h : Holds s c d l) (hbuf : s.env.bufOk = true) (hst : l.st = .rgb rgb) (hwf : s.cfg.wf) (hp : rgb.period ≠ 0)
    (hexec : exec (.rgbSetValue c true packed) s = .next t) (ch : Channel) :
    pwmOutput t c.inst ch =
      some (exactDuty rgb.period (channelOf (decodeColor packed) ch) s.cfg.maxDivisor, rgb.period.toNat) := by
  rw [exec_rgbSetValue_of_holds h hbuf hst hwf] at hexec
  cases hexec
  have ⟨hd, _, _⟩ := h
  rw [pwmOutput_of_rgb (get_set_self hd _) rfl]
  exact pwmAt_of_colorWritten (colorWritten_writeAll hwf ..) hp ch

/-- Settles O20: after `RGB.SetValue` the registers of O19 define every output, and no duty reaches the period. -/
theorem setValueDefinesOutputs : Obligations.SetValueDefinesOutputs := by
  refine ⟨fun _ _ _ _ => pwmFraction_eq_some, fun _ _ _ => word?_eq_some, ?follows, ?defined⟩
  case follows =>
    rintro s id d hd hk _ rfl
    exact ⟨pwmOutput_of_rgb hd hk .r, pwmOutput_of_rgb hd hk .g, pwmOutput_of_rgb hd hk .b⟩
  case defined =>
    intro s c d l rgb packed t h hbuf hst hwf hp hexec
    have houtput := pwmOutput_of_setValue h hbuf hst hwf hp hexec
    refine ⟨houtput .r, houtput .g, houtput .b, fun ch x y hxy => ?_⟩
    cases (houtput ch).symm.trans hxy
    exact exactDuty_lt_period hp ..

end Sys2Proof.Machine
end

section
/-! The Get and Set commands with an accessible buffer (O16, O17, R151, R153, R154, R170 to R179): the result returned,
or the field stored. -/

namespace Sys2Proof.Machine

section Commands

variable {α : Type} {s : State} {c : Ctx} {d : Device} {l : Live} {known : DeviceConfig → Option α} {st : α}

/-- `CopyOut` to an accessible buffer (R9, R150 step 8). -/
theorem copyOut_of_accessible (hbuf : s.env.bufOk = true) (caller : Nat) (r : Ret) :
    copyOut caller r s = returns caller r s := by
  simp [copyOut, hbuf]

/-- A command that returns a field of the Peripheral State. -/
theorem command_copyOut_accessible (h : Holds s c d l) (hst : known l.st = some st) (hbuf : s.env.bufOk = true)
    (priv : Bool) (r : α → Ret) :
    finish (command c priv false known s fun st => copyOut c.caller (r st) s) =
      .next (s.answer (.caller c.caller) (r st)) := by
  simp [command_of_holds h hst, copyOut_of_accessible hbuf, returns]

/-- A new Peripheral State of a live device, then `ok`, in full. -/
theorem finish_returns_setSt {id : Nat} (hd : s.devices[id]? = some d) (hl : d.life = .attached l) (caller : Nat)
    (new : DeviceConfig) :
    finish (returns caller .ok (s.setSt id new)) =
      .next (s.after id (d.withLive { l with st := new }) s.hw (.caller caller) .ok) := by
  rw [setSt_of_device hd hl]
  rfl

/-- A privileged command that stores its argument in the Peripheral State. -/
theorem command_setSt_accessible (h : Holds s c d l) (hst : known l.st = some st) (hbuf : s.env.bufOk = true)
    (new : α → DeviceConfig) :
    finish (command c true true known s fun st =>
        copyIn c.caller s (returns c.caller .ok (s.setSt c.inst (new st)))) =
      .next (s.after c.inst (d.withLive { l with st := new st }) s.hw (.caller c.caller) .ok) := by
  have ⟨hd, hlife, _⟩ := h
  rw [command_copyIn_accessible h hst hbuf, finish_returns_setSt hd hlife]

end Commands

/-- Settles O16: a Get command transfers a field it knows; `SW.GetValue` transfers the levels that its read found. -/
theorem getCommandsReturnFields : Obligations.GetCommandsReturnFields := by
  intro s c d l h hbuf priv
  refine ⟨fun led hst => ?led, fun rgb hst => ?rgb, fun sw hst => ?sw⟩
  case led =>
    have hknown : l.st.led? = some led := by rw [hst]; rfl
    exact ⟨command_copyOut_accessible h hknown hbuf priv _, command_copyOut_accessible h hknown hbuf priv _⟩
  case rgb =>
    have hknown : l.st.rgb? = some rgb := by rw [hst]; rfl
    exact ⟨command_copyOut_accessible h hknown hbuf priv _, command_copyOut_accessible h hknown hbuf priv _⟩
  case sw =>
    have hknown : l.st.sw? = some sw := by rw [hst]; rfl
    refine ⟨command_copyOut_accessible h hknown hbuf priv _, ?_⟩
    rw [exec_swGetValue_of_holds h hst, copyOut_of_accessible (by exact hbuf)]
    rfl

/-- Settles O17: each Set command is one change of the Peripheral State, the period's after its check against 0. -/
theorem setCommandsStoreFields : Obligations.SetCommandsStoreFields := by
  intro s c d l h hbuf
  have ⟨hd, hlife, _⟩ := h
  refine ⟨fun led hst v => ?led, fun rgb hst p hp => ?rgb, fun sw hst m => ?sw⟩
  case led =>
    have hknown : l.st.led? = some led := by rw [hst]; rfl
    exact ⟨command_setSt_accessible h hknown hbuf _, command_setSt_accessible h hknown hbuf _⟩
  case rgb => rw [exec_rgbSetPeriod_of_holds h hbuf hst, if_neg hp, finish_returns_setSt hd hlife]
  case sw =>
    have hknown : l.st.sw? = some sw := by rw [hst]; rfl
    exact command_setSt_accessible h hknown hbuf fun _ => .sw ⟨m⟩

end Sys2Proof.Machine
end

section
/-! `LED.Reset` and the LED outputs (O21, R34, R174, R175): the command is one masked write, and the outputs of the bank
are the content of the register written. -/

namespace Sys2Proof.Machine

/-! ## What the outputs show -/

/-- The 8-bit content of a register is the byte that a read of it finds (R26). -/
theorem byte?_eq_some {m : Memory} {a : Nat} {v : Byte} : m.byte? a = some v ↔ m.read a = some (.byte v) := by
  unfold Memory.byte?
  split
  · rename_i h; simp [h]
  · rename_i h; simpa using h v

/-- The pattern shown after a write of `LED_DATA` (R34). -/
theorem ledAt_write (cfg : Config) (base : Nat) (hw : Memory) (v : Byte) :
    ledAt cfg base (hw.write (base + cfg.offLedData) (.byte v)) = some v :=
  byte?_eq_some.mpr (memory_read_write_same ..)

section LedBank

variable {s : State} {id : Nat} {d : Device}

/-- What an LED bank shows in a state. -/
theorem ledOutput_of_led (hd : s.devices[id]? = some d) (hk : d.kind = .led) :
    ledOutput s id = ledAt s.cfg d.base s.hw := by
  simp [ledOutput, hd, hk]

/-- What an LED bank shows during an operation. -/
theorem ledOutputsDuring_of_led (hd : s.devices[id]? = some d) (hk : d.kind = .led) (t : State) :
    ledOutputsDuring s t id = (contentsDuring s t id).map (ledAt s.cfg d.base) := by
  simp [ledOutputsDuring, hd, hk]

/-- A live device with the content it has. -/
theorem withLive_of_life {l : Live} (h : d.life = .attached l) : d.withLive l = d := by
  rw [Device.withLive, ← h]

/-- The contents that the outputs see of an operation whose one access is a write of a live device's register: the old
and the new (R57). -/
theorem contentsDuring_write {l : Live} (hd : s.devices[id]? = some d) (hl : d.life = .attached l) (offset : Nat)
    (v : RegVal) (hw : Memory) (a : Agent) (r : Ret) :
    contentsDuring s (s.after id (d.withEvents (writeEvents offset v)) hw a r) id =
      [s.hw, s.hw.write (d.base + offset) v] := by
  have hcontents := contentsDuring_after hd l (writeEvents offset v) hw a r
  rw [withLive_of_life hl] at hcontents
  exact hcontents

end LedBank

/-! ## The command -/

/-- `LED.Reset` by the holder, with any privilege and buffer, is the masked write of the initial value (R175). -/
theorem exec_ledReset_of_holds {s : State} {c : Ctx} {d : Device} {l : Live} {led : LedState} (h : Holds s c d l)
    (hst : l.st = .led led) (priv : Bool) :
    exec (.ledReset c priv) s =
      .next (s.after c.inst (d.withEvents (writeEvents s.cfg.offLedData (.byte (led.initValue &&& led.mask))))
        (s.hw.write (d.base + s.cfg.offLedData) (.byte (led.initValue &&& led.mask))) (.caller c.caller) .ok) := by
  have ⟨hd, hlife, _⟩ := h
  have hknown : l.st.led? = some led := by rw [hst]; rfl
  have hdecl : (s.cfg.offLedData, .w8) ∈ declaredRegs s.cfg l.st.kind := by rw [hst]; exact List.mem_singleton_self _
  calc exec (.ledReset c priv) s
      = exec (.rfWriteMasked8 ⟨c.inst, c.caller⟩ s.cfg.offLedData led.initValue led.mask) s :=
        congrArg finish (command_of_holds h hknown priv false _)
    _ = _ := exec_rfWriteMasked8_of_declared hd hlife hdecl ..

/-- Settles O21: the one write of `LED.Reset` is the only content after the old one, and the bank shows its byte. -/
theorem ledResetWritesMaskedInit : Obligations.LedResetWritesMaskedInit := by
  refine ⟨fun s id d hd hk v => ?follows, fun s c d l led priv h hst => ?reset⟩
  case follows => rw [ledOutput_of_led hd hk]; exact byte?_eq_some
  case reset =>
    have ⟨hd, hlife, _⟩ := h
    have hk : d.kind = .led := by rw [kind_of_life hlife, hst]; rfl
    refine ⟨_, _, exec_ledReset_of_holds h hst priv, rfl, wroteOnly_write .., ?after, ?during⟩
    case after =>
      rw [ledOutput_of_led (get_set_self hd _) (by exact hk)]
      exact ledAt_write ..
    case during =>
      rw [ledOutputsDuring_of_led hd hk, contentsDuring_write hd hlife, ledOutput_of_led hd hk, List.map_cons,
        List.map_singleton, ledAt_write]

end Sys2Proof.Machine
end

section
/-! Opening and closing a session (O30, O31, O32, R190, R191): an `open` is an `acquire` after its checks, a `close` is
a release. -/

namespace Sys2Proof.Machine

/-- An `open` with a mode the kind does not allow ends at once, before the guard is looked at (R190). -/
theorem openStream_of_disallowed {s : State} {w : Site} {l : Live} {m : Mode} (hl : s.live? w.inst = some l)
    (hm : modeAllowed s.cfg l.st.kind m = false) :
    openStream l.st.kind w m s = raises w.caller .invalidArgument s := by
  simp [openStream, liveOf_ok.mpr hl, hm]

/-- An `open` of a device that is not Attached (R190, R254). -/
theorem openStream_of_not_live {s : State} {w : Site} (h : s.live? w.inst = none) (k : Kind) (m : Mode) :
    openStream k w m s = refuse .deadInstance := by
  simp [openStream, liveOf, h, refuse]

/-- Settles O30: the grant on a free guard, to a caller that asks for a Session. -/
theorem openCreatesSession : Obligations.OpenCreatesSession := by
  intro s w d l m hd hl hfree hm
  rw [exec_openOf, openStream_of_allowed (live?_of_device hd hl) hm, acquire_of_free hd hl hfree]
  rfl

/-- Settles O31: the two checks that come before the `acquire`, and the table of the modes. -/
theorem openChecksMode : Obligations.OpenChecksMode := by
  refine ⟨fun s w d l m hd hl hm => ?disallowed, fun s w k m hdead => ?dead, fun cfg m => ?table⟩
  case disallowed => rw [exec_openOf, openStream_of_disallowed (live?_of_device hd hl) hm]; rfl
  case dead => rw [exec_openOf, openStream_of_not_live hdead]; rfl
  case table => exact ⟨by simp [modeAllowed], rfl, by simp [modeAllowed]⟩

theorem exec_closeOf (k : Kind) (c : Ctx) (s : State) : exec (closeOf k c) s = finish (closeStream k c s) := by
  cases k <;> rfl

/-- A `close` inside the session, of the device's own kind, is the release of its token (R191). -/
theorem closeStream_of_inSession {s : State} {c : Ctx} {d : Device} {l : Live} {ses : Session}
    (h : InSession s c d l ses) : closeStream l.st.kind c s = release c s := by
  simp [closeStream, heldSession_of_inSession h]

/-- Settles O32: a `close` is a release, and with nobody waiting it is that of O28. -/
theorem closeEndsSession : Obligations.CloseEndsSession := by
  intro s c d l ses h
  have ⟨hholds, _, _⟩ := h
  have hclose : exec (closeOf l.st.kind c) s = exec (.guardRelease c) s := by
    rw [exec_closeOf, closeStream_of_inSession h, exec_guardRelease]
  obtain ⟨hfree, -⟩ := releaseFreesGuard
  exact ⟨fun hb => hclose.trans (hfree s c d l hholds hb), hclose⟩

end Sys2Proof.Machine
end

section
/-! The checks of a stream operation (O33, O34, O35, R204, R207): the token before the session, the mode before the
buffer, and the two directions that a kind does not have. -/

namespace Sys2Proof.Machine

/-! ## The token -/

section Token

variable {α : Type} {s : State} {c : Ctx} {e : Stop}

theorem heldSession_of_error (h : heldLive c s = .error e) : heldSession c s = .error e := by
  simp [heldSession, h]

theorem stream_of_error (h : heldLive c s = .error e) (known : DeviceConfig → Option α)
    (k : α → Session → Except Stop State) : stream c known s k = .error e := by
  simp [stream, heldSession_of_error h]

theorem closeStream_of_error (h : heldLive c s = .error e) (k : Kind) : closeStream k c s = .error e := by
  simp [closeStream, heldSession_of_error h]

end Token

/-- Every stream operation and `close` makes steps 1 and 2 of R150 first, and ends with them where they fail (R207). -/
theorem exec_of_heldLive_error {i : Instr} {c : Ctx} {k : Kind} (hi : streamOf i = some (c, k)) {s : State} {e : Stop}
    (h : heldLive c s = .error e) : exec i s = finish (.error e) := by
  cases i with
  | ledClose | rgbClose | swClose =>
    cases hi
    exact congrArg finish (closeStream_of_error h _)
  | ledStreamRead | ledStreamWrite | ledSeek | rgbStreamRead | rgbStreamWrite | rgbSeek | swStreamRead | swStreamWrite
  | swSeek =>
    cases hi
    exact congrArg finish (stream_of_error h _ _)
  | _ => cases hi

/-- Settles O33: the two ways in which those steps fail. -/
theorem streamChecksComeInOrder : Obligations.StreamChecksComeInOrder := fun _ _ _ _ hi =>
  ⟨fun hdead => exec_of_heldLive_error hi (heldLive_of_not_live hdead),
    fun _ hl hh => exec_of_heldLive_error hi (heldLive_of_not_holder hl hh)⟩

/-! ## The mode and the buffer -/

theorem canRead_iff {m : Mode} : Mode.canRead m = true ↔ m ≠ .writeOnly := by cases m <;> decide

theorem canWrite_iff {m : Mode} : Mode.canWrite m = true ↔ m ≠ .readOnly := by cases m <;> decide

section Transfer

variable {s : State} {caller : Nat} {ok : Bool} {k : Except Stop State}

/-- A transfer against the session's mode is refused, whatever it would do (R204). -/
theorem finish_requireMode_of_false (h : ok = false) : finish (requireMode ok k) = .refused .mode := by
  simp [requireMode, h, refuse]

/-- A transfer that the mode allows fails first on its buffer (R224). -/
theorem transfer_of_inaccessible (h : ok = true) (hbuf : s.env.bufOk = false) :
    finish (requireMode ok (copyIn caller s k)) = .next (s.answer (.caller caller) (.error .ioFault)) := by
  simp [requireMode, h, copyIn_of_inaccessible hbuf, raises]

/-- A transfer that the mode allows, with an accessible buffer, goes on. -/
theorem transfer_of_accessible (h : ok = true) (hbuf : s.env.bufOk = true) :
    requireMode ok (copyIn caller s k) = k := by
  simp [requireMode, h, copyIn, hbuf]

end Transfer

section Kinds

variable {s : State} {c : Ctx} {d : Device} {l : Live} {ses : Session}

/-- The prelude of an LED stream operation on an LED bank, inside the session. -/
theorem stream_led {led : LedState} (h : InSession s c d l ses) (hst : l.st = .led led)
    (k : LedState → Session → Except Stop State) : stream c DeviceConfig.led? s k = k led ses :=
  stream_of_inSession h (by rw [hst]; rfl) k

/-- That of an RGB stream operation on a PWM block. -/
theorem stream_rgb {rgb : RgbState} (h : InSession s c d l ses) (hst : l.st = .rgb rgb)
    (k : RgbState → Session → Except Stop State) : stream c DeviceConfig.rgb? s k = k rgb ses :=
  stream_of_inSession h (by rw [hst]; rfl) k

/-- That of a Switch stream operation on a switch bank. -/
theorem stream_sw {sw : SwState} (h : InSession s c d l ses) (hst : l.st = .sw sw)
    (k : SwState → Session → Except Stop State) : stream c DeviceConfig.sw? s k = k sw ses :=
  stream_of_inSession h (by rw [hst]; rfl) k

end Kinds

/-- Settles O34: each of the two has one outcome inside a session. -/
theorem unsupportedDirectionsReturnErrors : Obligations.UnsupportedDirectionsReturnErrors := by
  intro s c d l ses h
  exact ⟨fun led hst offset cap => ⟨rfl, congrArg finish (stream_led h hst _)⟩,
    fun sw hst offset data => ⟨rfl, congrArg finish (stream_sw h hst _)⟩⟩

/-- Settles O35: inside a session each of the four transfers is its mode check, then its buffer check, then the rest. -/
theorem streamTransfersAreChecked : Obligations.StreamTransfersAreChecked := by
  intro s c d l ses h offset cap data
  have hread : ses.mode = .writeOnly → Mode.canRead ses.mode = false := fun hm => by rw [hm]; rfl
  have hwrite : ses.mode = .readOnly → Mode.canWrite ses.mode = false := fun hm => by rw [hm]; rfl
  refine ⟨fun rgb hst => ?rgb, fun sw hst => ?sw, fun led hst => ?led⟩
  case rgb =>
    simp only [exec, execRgbStreamRead, execRgbStreamWrite, stream_rgb h hst]
    exact ⟨fun hm => finish_requireMode_of_false (hread hm), fun hm => finish_requireMode_of_false (hwrite hm),
      fun hbuf => ⟨fun hm => transfer_of_inaccessible (canRead_iff.mpr hm) hbuf,
        fun hm => transfer_of_inaccessible (canWrite_iff.mpr hm) hbuf⟩⟩
  case sw =>
    simp only [exec, execSwStreamRead, stream_sw h hst]
    exact ⟨fun hm => finish_requireMode_of_false (hread hm),
      fun hbuf hm => transfer_of_inaccessible (canRead_iff.mpr hm) hbuf⟩
  case led =>
    simp only [exec, execLedStreamWrite, stream_led h hst]
    exact ⟨fun hm => finish_requireMode_of_false (hwrite hm),
      fun hbuf hm => transfer_of_inaccessible (canWrite_iff.mpr hm) hbuf⟩

end Sys2Proof.Machine
end

section
/-! Stream reads (O37, O38, R194, R197, R201): a read is the text put into the read buffer, and a slice of that buffer
returned. -/

namespace Sys2Proof.Machine

/-! ## A Session changed and a result returned -/

/-- One device replaced twice: the second counts. -/
theorem after_of_set (s : State) (id : Nat) (hw : Memory) (e f : Device) (m : Memory) (a : Agent) (r : Ret) :
    ({ s with hw := hw, devices := s.devices.set id e } : State).after id f m a r = s.after id f m a r := by
  simp [State.after]

/-- Accesses to the device of a session leave the session. -/
theorem inSession_withEvents {s : State} {c : Ctx} {d : Device} {l : Live} {ses : Session} (h : InSession s c d l ses)
    (hw : Memory) (es : List BusEvent) :
    InSession { s with hw := hw, devices := s.devices.set c.inst (d.withEvents es) } c (d.withEvents es) l ses := by
  obtain ⟨⟨hd, hlife, hholder⟩, hses, htoken⟩ := h
  exact ⟨⟨get_set_self hd _, hlife, hholder⟩, hses, htoken⟩

/-- A change of the Session of the caller, in full. -/
theorem modifySession_of_inSession {s : State} {c : Ctx} {d : Device} {l : Live} {ses : Session}
    (h : InSession s c d l ses) (f : Session → Session) :
    s.modifySession c.inst f =
      { s with devices := s.devices.set c.inst (d.withLive { l with session := some (f ses) }) } := by
  obtain ⟨⟨hd, hlife, -⟩, hses, -⟩ := h
  rw [modifySession_of_device hd hlife, hses]
  rfl

/-- The last part of a stream operation: the Session changes, and a result is returned. -/
theorem finish_returns_modifySession {s : State} {c : Ctx} {d : Device} {l : Live} {ses : Session}
    (h : InSession s c d l ses) (f : Session → Session) (r : Ret) :
    finish (returns c.caller r (s.modifySession c.inst f)) =
      .next (s.after c.inst (d.withLive { l with session := some (f ses) }) s.hw (.caller c.caller) r) := by
  rw [modifySession_of_inSession h]
  rfl

/-! ## The slice -/

theorem readSlice_length (buf : List Byte) (offset cap : Nat) :
    (readSlice buf offset cap).length = min cap (buf.length - offset) := by
  simp [readSlice]

/-- The number of bytes that a read returns: none from an offset at the end of the buffer or behind it (R194). -/
theorem readCount_eq (length offset cap : Nat) :
    (if length ≤ offset then 0 else min cap (length - offset)) = min cap (length - offset) := by
  split <;> omega

/-- The slice as that number of bytes. -/
theorem take_readCount (buf : List Byte) (offset cap : Nat) :
    (buf.drop offset).take (min cap (buf.length - offset)) = readSlice buf offset cap := by
  rw [readSlice, ← List.length_drop, ← List.take_eq_take_min]

/-! ## The reads -/

/-- The rest of a read once its text is known (R201). -/
theorem finish_finishRead {s : State} {c : Ctx} {d : Device} {l : Live} {ses : Session} (h : InSession s c d l ses)
    (offset cap : Nat) (buf : List Byte) :
    finish (finishRead c offset cap buf s) = .next (s.after c.inst
      (d.withLive { l with
        session := some { ses with rdBuf := buf, pos := offset + min cap (buf.length - offset) } }) s.hw
      (.caller c.caller) (.bytes (readSlice buf offset cap))) := by
  rw [finishRead, finish_returns_modifySession h, readSlice_length]

/-- Settles O37: the read of the colour's text, or of the buffer as it is. -/
theorem rgbReadReturnsText : Obligations.RgbReadReturnsText := by
  rintro s c d l ses rgb offset cap h hst hm hbuf text _ rfl rfl
  simp only [exec, execRgbStreamRead, stream_rgb h hst, transfer_of_accessible (canRead_iff.mpr hm) hbuf]
  rw [finish_finishRead h, readCount_eq, take_readCount]

/-- Settles O38: at offset 0 the read goes on from the state that its one access leaves. -/
theorem switchReadReturnsText : Obligations.SwitchReadReturnsText := by
  intro s c d l ses sw cap h hst hm hbuf
  simp only [exec, execSwStreamRead, stream_sw h hst, transfer_of_accessible (canRead_iff.mpr hm) hbuf]
  refine ⟨?first, ?later⟩
  case first =>
    rintro _ rfl
    have ⟨⟨hd, hlife, _⟩, _, _⟩ := h
    simp only [if_true, readMasked_switch hd hlife hst]
    rw [finish_finishRead (inSession_withEvents h s.hw _), after_of_set, Nat.zero_add]
    rfl
  case later =>
    rintro offset _ hne rfl
    rw [if_neg hne, finish_finishRead h, readCount_eq, take_readCount]

end Sys2Proof.Machine
end

section
/-! `LED.StreamWrite` (O36, R91, R192): the patterns are a chain of writes to one register, of which the last stays. -/

namespace Sys2Proof.Machine

/-- A session whose device's registers were written. -/
theorem inSession_wrote {s : State} {c : Ctx} {d : Device} {l : Live} {ses : Session} (h : InSession s c d l ses)
    (ws : List (Nat × RegVal)) : InSession (s.wrote c.inst d ws) c (d.withEvents (eventsOf ws)) l ses :=
  inSession_withEvents h _ _

/-- After a chain of writes the device is replaced once more. -/
theorem after_wrote (s : State) (id : Nat) (d e : Device) (ws : List (Nat × RegVal)) (m : Memory) (a : Agent)
    (r : Ret) :
    (s.wrote id d ws).after id e m a r = s.after id e m a r :=
  after_of_set ..

/-- A chain of writes to one register leaves the value written last, and every other register. -/
theorem wroteOnly_writeAll {base offset : Nat} {vs : List RegVal} {v : RegVal} (hlast : vs.getLast? = some v)
    (hw : Memory) : WroteOnly hw (writeAll base (vs.map fun u => (offset, u)) hw) (base + offset) v := by
  obtain ⟨init, rfl⟩ := List.getLast?_eq_some_iff.mp hlast
  refine ⟨?_, fun a ha => writeAll_read_other hw fun w hmem => ?_⟩
  · rw [List.map_append]
    exact writeAll_read_last hw (by simp)
  · obtain ⟨u, -, rfl⟩ := List.mem_map.mp hmem
    exact ha

/-- The patterns that an LED stream write shows, in order (R192). -/
def patternsOf (led : LedState) (data : List Byte) : List RegVal :=
  (data.filter (· ≠ 0)).map fun b => .byte (b &&& led.mask)

/-- `LED.StreamWrite` with its data transferred, in full. -/
theorem exec_ledStreamWrite_of_inSession {s : State} {c : Ctx} {d : Device} {l : Live} {ses : Session} {led : LedState}
    (h : InSession s c d l ses) (hst : l.st = .led led) (hm : ses.mode ≠ .readOnly) (hbuf : s.env.bufOk = true)
    (offset : Nat) (data : List Byte) :
    exec (.ledStreamWrite c offset data) s = .next (s.after c.inst
      ((d.withLive { l with session := some { ses with pos := offset + patternCount data } }).withEvents
        ((data.filter (· ≠ 0)).flatMap fun b => writeEvents s.cfg.offLedData (.byte (b &&& led.mask))))
      (writeAll d.base ((patternsOf led data).map fun v => (s.cfg.offLedData, v)) s.hw)
      (.caller c.caller) (.count (patternCount data))) := by
  have ⟨⟨hd, hlife, _⟩, _, _⟩ := h
  have hwrites := writePatterns_spec (data := data) hd hlife hst []
  rw [wrote_nil hd, List.nil_append] at hwrites
  simp only [exec, execLedStreamWrite, stream_led h hst, transfer_of_accessible (canWrite_iff.mpr hm) hbuf, hwrites,
    Except.bind]
  rw [setPos, finish_returns_modifySession (inSession_wrote h _), after_wrote, withEvents_withLive, eventsOf,
    List.flatMap_map, patternsOf, List.map_map]
  rfl

/-- Settles O36: the last of the patterns is that of the last byte other than NUL. -/
theorem ledWriteShowsLastPattern : Obligations.LedWriteShowsLastPattern := by
  intro s c d l ses led offset data h hst hm hbuf
  refine ⟨_, exec_ledStreamWrite_of_inSession h hst hm hbuf offset data, ?_⟩
  split
  case h_1 hnone =>
    rw [patternsOf, List.getLast?_eq_none_iff.mp hnone]
    exact fun _ => rfl
  case h_2 b hlast => exact wroteOnly_writeAll (by rw [patternsOf, List.getLast?_map, hlast]; rfl) _

end Sys2Proof.Machine
end

section
/-! Seeks (O41, O42, O43, R97, R199, R200): each kind first makes its writes, which for a Switch are none, and then the
one computation of the position. -/

namespace Sys2Proof.Machine

/-! ## The position -/

/-- The sum that a seek makes for a `whence` other than `End`, as an integer (R199). -/
def SeekSum (pos : Nat) (offset : Int) (whence : Whence) (new : Int) : Prop :=
  whence = .fromStart ∧ new = offset ∨ whence = .fromCurrent ∧ new = pos + offset

theorem seekTarget_of_sum {pos : Nat} {offset new : Int} {whence : Whence} (h : SeekSum pos offset whence new) :
    seekTarget pos offset whence = if new < 0 then none else some new.toNat := by
  obtain ⟨rfl, rfl⟩ | ⟨rfl, rfl⟩ := h <;> rfl

/-- The rest of a seek on a device whose registers were written: the position, or the error that leaves the writes. -/
theorem finish_finishSeek_wrote {s : State} {c : Ctx} {d : Device} {l : Live} {ses : Session}
    (h : InSession s c d l ses) (ws : List (Nat × RegVal)) (offset : Int) (whence : Whence) :
    finish (finishSeek c ses.pos offset whence (s.wrote c.inst d ws)) =
      (seekTarget ses.pos offset whence).elim
        (.next (s.after c.inst (d.withEvents (eventsOf ws)) (writeAll d.base ws s.hw)
          (.caller c.caller) (.error .invalidArgument)))
        (fun n => .next (s.after c.inst
          ((d.withLive { l with session := some { ses with pos := n } }).withEvents (eventsOf ws))
          (writeAll d.base ws s.hw) (.caller c.caller) (.position n))) := by
  unfold finishSeek
  cases seekTarget ses.pos offset whence with
  | none => rfl
  | some n =>
    simp only [Option.elim_some]
    rw [setPos, finish_returns_modifySession (inSession_wrote h _), after_wrote, withEvents_withLive]
    rfl

/-- A seek that makes the writes `ws`, by the sum: the new position where it is not negative, else the error, as for
`End`. -/
theorem seek_outcomes {s : State} {c : Ctx} {d : Device} {l : Live} {ses : Session} {seek : Whence → Instr}
    {offset : Int} {ws : List (Nat × RegVal)} (h : InSession s c d l ses)
    (hseek : ∀ whence, exec (seek whence) s = finish (finishSeek c ses.pos offset whence (s.wrote c.inst d ws))) :
    (∀ whence new, SeekSum ses.pos offset whence new →
      (0 ≤ new → exec (seek whence) s = .next (s.after c.inst
        ((d.withLive { l with session := some { ses with pos := new.toNat } }).withEvents (eventsOf ws))
        (writeAll d.base ws s.hw) (.caller c.caller) (.position new.toNat))) ∧
      (new < 0 → exec (seek whence) s = .next (s.after c.inst (d.withEvents (eventsOf ws)) (writeAll d.base ws s.hw)
        (.caller c.caller) (.error .invalidArgument)))) ∧
    exec (seek .fromEnd) s = .next (s.after c.inst (d.withEvents (eventsOf ws)) (writeAll d.base ws s.hw)
      (.caller c.caller) (.error .invalidArgument)) := by
  refine ⟨fun whence new hsum => ⟨fun hpos => ?landed, fun hneg => ?failed⟩, ?fromEnd⟩
  case landed => rw [hseek, finish_finishSeek_wrote h, seekTarget_of_sum hsum, if_neg (not_lt.mpr hpos)]; rfl
  case failed => rw [hseek, finish_finishSeek_wrote h, seekTarget_of_sum hsum, if_pos hneg]; rfl
  case fromEnd => rw [hseek, finish_finishSeek_wrote h]; rfl

/-! ## The three kinds -/

/-- Settles O43: the one write of a seek on LED is that of `LED.WritePattern` (R175). -/
theorem ledSeekWritesMaskedInit : Obligations.LedSeekWritesMaskedInit := by
  intro s c d l ses led offset h hst
  have ⟨⟨hd, hlife, _⟩, _, _⟩ := h
  have hdecl : (s.cfg.offLedData, .w8) ∈ declaredRegs s.cfg l.st.kind := by rw [hst]; exact List.mem_singleton_self _
  have hwrite : writePattern c.inst led led.initValue s =
      .ok (s.wrote c.inst d [(s.cfg.offLedData, .byte (led.initValue &&& led.mask))]) :=
    writeRegister_spec (v := .byte (led.initValue &&& led.mask)) hd hlife hdecl
  have hseek (whence : Whence) : exec (.ledSeek c offset whence) s = finish (finishSeek c ses.pos offset whence
      (s.wrote c.inst d [(s.cfg.offLedData, .byte (led.initValue &&& led.mask))])) := by
    simp only [exec, execLedSeek, stream_led h hst, hwrite, Except.bind]
  refine ⟨_, wroteOnly_write .., ?_⟩
  rintro _ rfl
  exact seek_outcomes h hseek

/-- The three duties after `RGB.ResetDuty` (R156): the offsets of the registers differ (R6). -/
theorem dutiesZeroed_writeAll {cfg : Config} (hwf : cfg.wf) (base : Nat) (hw : Memory) :
    DutiesZeroed cfg base hw
      (writeAll base [(cfg.offDutyR, .word 0), (cfg.offDutyG, .word 0), (cfg.offDutyB, .word 0)] hw) := by
  obtain ⟨hrg, hrb, -, hgb, -, -⟩ := offsets_differ hwf
  refine ⟨?r, ?g, ?b, fun a ha => ?other⟩
  case r => exact writeAll_read_last (ws := []) hw (by simp [hrg, hrb])
  case g => exact writeAll_read_last (ws := [_]) hw (by simp [hgb])
  case b => exact writeAll_read_last (ws := [_, _]) hw (by simp)
  case other => exact writeAll_read_other hw (by simpa using ha)

/-- Settles O42: the three writes of a seek on RGB are those of `RGB.ResetDuty`. -/
theorem rgbSeekZeroesDuties : Obligations.RgbSeekZeroesDuties := by
  intro s c d l ses rgb offset h hst hwf
  have ⟨⟨hd, hlife, _⟩, _, _⟩ := h
  refine ⟨_, dutiesZeroed_writeAll hwf d.base s.hw, seek_outcomes h fun whence => ?_⟩
  simp only [exec, execRgbSeek, stream_rgb h hst, resetDuty_spec hd hlife hst, Except.bind]

@[simp] theorem withEvents_eventsOf_nil (d : Device) : d.withEvents (eventsOf []) = d := by
  simp [Device.withEvents, eventsOf]

@[simp] theorem writeAll_nil (base : Nat) (m : Memory) : writeAll base [] m = m := rfl

/-- A device put back as it is. -/
theorem after_self {s : State} {id : Nat} {d : Device} (hd : s.devices[id]? = some d) (a : Agent) (r : Ret) :
    s.after id d s.hw a r = s.answer a r := by
  obtain ⟨hlt, rfl⟩ := List.getElem?_eq_some_iff.mp hd
  simp [State.after, State.answer]

/-- Settles O41: a seek on a Switch makes no write. -/
theorem switchSeekMovesPosition : Obligations.SwitchSeekMovesPosition := by
  intro s c d l ses sw offset h hst
  have ⟨⟨hd, _, _⟩, _, _⟩ := h
  have hseek (whence : Whence) : exec (.swSeek c offset whence) s =
      finish (finishSeek c ses.pos offset whence (s.wrote c.inst d [])) := by
    rw [wrote_nil hd]
    exact congrArg finish (stream_sw h hst _)
  have houtcomes := seek_outcomes h hseek
  simp only [withEvents_eventsOf_nil, writeAll_nil, after_self hd] at houtcomes
  exact houtcomes

end Sys2Proof.Machine
end

section
/-! The text that an RGB stream write accepts (O40, O45, R88, R89, R196): the parser against the layout of R88, and the
trimmed content. -/

namespace Sys2Proof.Machine

/-! ## Digits -/

/-- The three ranges of R88 are those of the model's digit. -/
theorem hexValue_eq_some {h : Byte} {v : Nat} : hexValue h = some v ↔ IsHexDigit h v := by
  unfold hexValue IsHexDigit
  split_ifs <;> simp only [Option.some.injEq, false_iff] <;> omega

theorem IsHexDigit.lt {h : Byte} {v : Nat} (hv : IsHexDigit h v) : v < 16 := by
  unfold IsHexDigit at hv
  omega

/-- Two digits are a byte, since each is below 16 (R88). -/
theorem hexPair_eq_some {h1 h2 v : Byte} : hexPair h1 h2 = some v ↔ IsHexPair h1 h2 v := by
  constructor
  · intro h
    unfold hexPair at h
    split at h
    case h_1 a b ha hb =>
      cases h
      have ha := hexValue_eq_some.mp ha
      have hb := hexValue_eq_some.mp hb
      have hlta := ha.lt
      have hltb := hb.lt
      exact ⟨a, b, ha, hb, Nat.mod_eq_of_lt (by omega)⟩
    case h_2 => cases h
  · rintro ⟨a, b, ha, hb, hv⟩
    rw [hexPair, hexValue_eq_some.mpr ha, hexValue_eq_some.mpr hb]
    simp [← hv]

/-! ## The layout -/

/-- The parser accepts the layout of R88 and nothing else. -/
theorem parseColor_eq_some {text : List Byte} {col : ColorValue} :
    parseColor text = some col ↔ IsWriteText text col := by
  constructor
  · intro h
    unfold parseColor at h
    split at h
    case h_1 z0 x0 r1 r2 s0 z1 x1 g1 g2 s1 z2 x2 b1 b2 =>
      split at h
      case isTrue hfixed =>
        split at h
        case h_1 r g b hr hg hb =>
          cases h
          cases hfixed
          exact ⟨_, _, _, _, _, _, rfl, hexPair_eq_some.mp hr, hexPair_eq_some.mp hg, hexPair_eq_some.mp hb⟩
        case h_2 => cases h
      case isFalse => cases h
    case h_2 => cases h
  · rintro ⟨r1, r2, g1, g2, b1, b2, rfl, hr, hg, hb⟩
    simp only [parseColor, if_true, hexPair_eq_some.mpr hr, hexPair_eq_some.mpr hg, hexPair_eq_some.mpr hb]

/-- A text that parses has the 14 bytes of `RGB_TEXT_LEN` (R5). -/
theorem length_of_parseColor {text : List Byte} {col : ColorValue} (h : parseColor text = some col) :
    text.length = rgbTextLen := by
  obtain ⟨r1, r2, g1, g2, b1, b2, rfl, -⟩ := parseColor_eq_some.mp h
  rfl

/-! ## The trimmed content -/

theorem isSpace_iff {b : Byte} : isSpace b = true ↔ b ∈ whitespace := by
  simp [isSpace, whitespace, or_assoc]

/-- The content of a buffer without its leading whitespace. -/
def leftTrimmed (buf : List Byte) : List Byte := (content buf).dropWhile isSpace

theorem trimmed_eq_rdropWhile (buf : List Byte) : trimmed buf = (leftTrimmed buf).rdropWhile isSpace := rfl

/-- A first byte that is left is not whitespace. -/
theorem not_of_head?_dropWhile {p : Byte → Bool} {l : List Byte} {b : Byte} (h : (l.dropWhile p).head? = some b) :
    p b = false := by
  have hnot := List.head?_dropWhile_not p l
  rwa [h] at hnot

/-- Nor is a last byte that is left. -/
theorem not_of_getLast?_rdropWhile {p : Byte → Bool} {l : List Byte} {b : Byte}
    (h : (l.rdropWhile p).getLast? = some b) : p b = false := by
  rw [List.rdropWhile, List.getLast?_reverse] at h
  exact not_of_head?_dropWhile h

/-- The trimmed content is what R89 says, cut out of the buffer by the bytes that are dropped on its sides. -/
theorem isTrimmedContent_trimmed (buf : List Byte) : IsTrimmedContent buf (trimmed buf) := by
  have hleft : leftTrimmed buf = trimmed buf ++ (leftTrimmed buf).rtakeWhile isSpace :=
    List.rdropWhile_append_rtakeWhile.symm
  have hsides : content buf =
      (content buf).takeWhile isSpace ++ trimmed buf ++ (leftTrimmed buf).rtakeWhile isSpace := by
    rw [List.append_assoc, ← hleft]
    exact List.takeWhile_append_dropWhile.symm
  refine ⟨content buf, buf.dropWhile fun b => b ≠ 0, _, _, List.takeWhile_append_dropWhile.symm, fun b hb => ?noNul,
    ?nulNext, hsides, fun b hb => ?pre, fun b hb => ?post, fun b hb => ?first, fun b hb => ?last⟩
  case noNul => simpa using List.mem_takeWhile_imp hb
  case nulNext =>
    cases hrest : (buf.dropWhile fun b => b ≠ 0).head? with
    | none => exact .inl (List.head?_eq_none_iff.mp hrest)
    | some b =>
      have hnul : b = 0 := by simpa using not_of_head?_dropWhile hrest
      exact .inr (congrArg some hnul)
  case pre => exact isSpace_iff.mp (List.mem_takeWhile_imp hb)
  case post => exact isSpace_iff.mp (List.mem_rtakeWhile_imp hb)
  case first =>
    have hhead : (leftTrimmed buf).head? = some b := by
      rw [hleft, List.head?_append, hb]
      rfl
    simp [← isSpace_iff, not_of_head?_dropWhile hhead]
  case last => simp [← isSpace_iff, not_of_getLast?_rdropWhile hb]

/-! ## The read text as a write (R205) -/

/-- The read text without its newline. -/
def colorLine (c : ColorValue) : List Byte :=
  [0x30, 0x78] ++ hexText c.r ++ [0x20, 0x30, 0x78] ++ hexText c.g ++ [0x20, 0x30, 0x78] ++ hexText c.b

/-- A line with no NUL, and with no whitespace at its ends, is what is left of it and a newline. -/
theorem trimmed_newline {b : Byte} {rest : List Byte} (hnul : ∀ x ∈ b :: rest, x ≠ 0) (hfirst : isSpace b = false)
    (hlast : ∀ x ∈ (b :: rest).getLast?, isSpace x = false) : trimmed (b :: rest ++ [0x0A]) = b :: rest := by
  have hcontent : content (b :: rest ++ [0x0A]) = b :: rest ++ [0x0A] := by
    rw [content, List.takeWhile_eq_self_iff]
    intro x hx
    obtain hx | hx := List.mem_append.mp hx
    · simpa using hnul x hx
    · obtain rfl := List.mem_singleton.mp hx
      rfl
  have hleft : leftTrimmed (b :: rest ++ [0x0A]) = b :: rest ++ [0x0A] := by
    rw [leftTrimmed, hcontent]
    exact List.dropWhile_cons_of_neg (by simp [hfirst])
  rw [trimmed_eq_rdropWhile, hleft, List.rdropWhile_concat_pos isSpace _ _ rfl, List.rdropWhile_eq_self_iff]
  intro hne
  simp [hlast _ (List.getLast?_eq_some_getLast hne)]

/-- A digit of a read text (R87) is one of a write text (R88), of the same value. -/
theorem isHexDigit_hexDigit {n : Nat} (h : n < 16) : IsHexDigit (hexDigit n) n := by
  revert n
  simp only [← hexValue_eq_some]
  decide

theorem IsHexDigit.ne_zero {h : Byte} {v : Nat} (hv : IsHexDigit h v) : h ≠ 0 := by
  rintro rfl
  simp [IsHexDigit] at hv

theorem IsHexDigit.not_isSpace {h : Byte} {v : Nat} (hv : IsHexDigit h v) : isSpace h = false := by
  rw [Bool.eq_false_iff, Ne, isSpace_iff]
  intro hmem
  simp only [whitespace, List.mem_cons, List.not_mem_nil, or_false] at hmem
  obtain rfl | rfl | rfl | rfl | rfl | rfl := hmem <;> simp [IsHexDigit] at hv

theorem hexText_of_lt {v : Byte} (h : v.toNat < 16) : hexText v = [hexDigit v.toNat] := if_pos h

theorem hexText_of_le {v : Byte} (h : 16 ≤ v.toNat) :
    hexText v = [hexDigit (v.toNat / 16), hexDigit (v.toNat % 16)] :=
  if_neg (by omega)

theorem isHexDigit_of_mem_hexText {v b : Byte} (h : b ∈ hexText v) : ∃ n, IsHexDigit b n := by
  have hv : v.toNat < 256 := v.isLt
  by_cases hlt : v.toNat < 16
  · rw [hexText_of_lt hlt, List.mem_singleton] at h
    exact ⟨_, h ▸ isHexDigit_hexDigit hlt⟩
  · rw [hexText_of_le (by omega), List.mem_pair] at h
    obtain rfl | rfl := h
    · exact ⟨_, isHexDigit_hexDigit (by omega)⟩
    · exact ⟨_, isHexDigit_hexDigit (by omega)⟩

theorem hexText_ne_nil (v : Byte) : hexText v ≠ [] := by
  obtain ⟨hpos, -⟩ := hexText_length v
  exact List.ne_nil_of_length_pos hpos

/-- The line has no NUL: the bytes between the digits have none, and no digit is one. -/
theorem zero_notMem_colorLine (c : ColorValue) : 0 ∉ colorLine c := by
  have hdigits (v : Byte) : 0 ∉ hexText v := fun hmem => by
    obtain ⟨n, hn⟩ := isHexDigit_of_mem_hexText hmem
    exact hn.ne_zero rfl
  simpa [colorLine] using ⟨hdigits c.r, hdigits c.g, hdigits c.b⟩

/-- The line ends with a digit. -/
theorem not_isSpace_of_getLast?_colorLine {c : ColorValue} {b : Byte} (h : (colorLine c).getLast? = some b) :
    isSpace b = false := by
  have hne : hexText c.b ≠ [] := hexText_ne_nil c.b
  rw [colorLine, List.getLast?_append, List.getLast?_eq_some_getLast hne] at h
  obtain rfl := Option.some.inj h
  obtain ⟨n, hn⟩ := isHexDigit_of_mem_hexText (List.getLast_mem hne)
  exact hn.not_isSpace

/-- Of the read text a write sees all but the newline. -/
theorem trimmed_colorText (c : ColorValue) : trimmed (colorText c) = colorLine c :=
  trimmed_newline (b := 0x30) (fun _ hmem hzero => zero_notMem_colorLine c (hzero ▸ hmem)) rfl
    fun _ hlast => not_isSpace_of_getLast?_colorLine hlast

/-- A channel from 0x10 on has the two digits that a write reads as the same channel. -/
theorem isHexPair_of_le {v : Byte} (h : 16 ≤ v.toNat) :
    IsHexPair (hexDigit (v.toNat / 16)) (hexDigit (v.toNat % 16)) v := by
  have hv : v.toNat < 256 := v.isLt
  exact ⟨_, _, isHexDigit_hexDigit (by omega), isHexDigit_hexDigit (by omega), by omega⟩

/-- A channel below 0x10 has one digit, any other two (R87). -/
theorem hexText_length_eq (v : Byte) : (hexText v).length = if v.toNat < 16 then 1 else 2 := by
  unfold hexText
  split <;> rfl

theorem parseColor_colorLine {c : ColorValue} (hr : 16 ≤ c.r.toNat) (hg : 16 ≤ c.g.toNat) (hb : 16 ≤ c.b.toNat) :
    parseColor (colorLine c) = some c := by
  refine parseColor_eq_some.mpr
    ⟨_, _, _, _, _, _, ?_, isHexPair_of_le hr, isHexPair_of_le hg, isHexPair_of_le hb⟩
  rw [colorLine, hexText_of_le hr, hexText_of_le hg, hexText_of_le hb]
  rfl

/-- One channel below 0x10 makes the text shorter than a triple. -/
theorem colorLine_length_lt {c : ColorValue} (h : ¬(16 ≤ c.r.toNat ∧ 16 ≤ c.g.toNat ∧ 16 ≤ c.b.toNat)) :
    (colorLine c).length < 14 := by
  simp only [colorLine, List.length_append, List.length_cons, List.length_nil, hexText_length_eq]
  split_ifs <;> omega

/-- Settles O45: a text with every channel from 0x10 on is a triple, any other is too short to be one. -/
theorem readTextIsWritableFrom16 : Obligations.ReadTextIsWritableFrom16 := by
  intro c
  rw [trimmed_colorText]
  refine ⟨⟨fun ⟨hr, hg, hb⟩ => parseColor_colorLine hr hg hb, fun hparse => ?_⟩, colorLine_length_lt⟩
  by_contra hsmall
  exact absurd (length_of_parseColor hparse) (colorLine_length_lt hsmall).ne

end Sys2Proof.Machine
end

section
/-! `RGB.StreamWrite` (O39, O40, R195, R196, R203): what is done with the copy of the buffer, by its trimmed content. -/

namespace Sys2Proof.Machine

/-! ## The four outcomes -/

section WriteText

variable {c : Ctx} {rgb : RgbState} {tmp : List Byte} {offset n : Nat} {s : State}

/-- A trimmed content longer than a triple. -/
theorem rgbWriteText_of_long (h : 14 < (trimmed tmp).length) :
    rgbWriteText c rgb tmp offset n s = raises c.caller .invalidFormat s := if_pos h

/-- A trimmed content of the length of a triple that is none. -/
theorem rgbWriteText_of_malformed (h : (trimmed tmp).length = 14) (hparse : parseColor (trimmed tmp) = none) :
    rgbWriteText c rgb tmp offset n s = raises c.caller .invalidFormat s := by
  simp [rgbWriteText, rgbTextLen, h, hparse]

/-- A shorter trimmed content. -/
theorem rgbWriteText_of_short (h : (trimmed tmp).length < 14) :
    rgbWriteText c rgb tmp offset n s = returns c.caller (.count n) (storeWrite c.inst tmp (offset + n) s) := by
  simp [rgbWriteText, rgbTextLen, h.not_gt, h.ne]

/-- A triple. -/
theorem rgbWriteText_of_color {col : ColorValue} (h : parseColor (trimmed tmp) = some col) :
    rgbWriteText c rgb tmp offset n s =
      (applyColor c.inst rgb col (storeWrite c.inst tmp (offset + n) s)).bind (returns c.caller (.count n)) := by
  simp [rgbWriteText, length_of_parseColor h, h]

end WriteText

section InSession

variable {s : State} {c : Ctx} {d : Device} {l : Live} {ses : Session} {rgb : RgbState}

/-- `RGB.StreamWrite` with its data transferred: the fit check, then what the text is (R195). -/
theorem exec_rgbStreamWrite_of_inSession (h : InSession s c d l ses) (hst : l.st = .rgb rgb)
    (hm : ses.mode ≠ .readOnly) (hbuf : s.env.bufOk = true) (offset : Nat) (data : List Byte) :
    exec (.rgbStreamWrite c offset data) s =
      finish (if offset + data.length > s.cfg.wrBufSize then raises c.caller .invalidFormat s
        else rgbWriteText c rgb (overlay ses.wrBuf offset data) offset data.length s) := by
  simp only [exec, execRgbStreamWrite, stream_rgb h hst, transfer_of_accessible (canWrite_iff.mpr hm) hbuf]

/-- `RGB.ApplyColor` on a live PWM block, then a result, in full (R155). -/
theorem finish_returns_applyColor {id : Nat} (hd : s.devices[id]? = some d) (hl : d.life = .attached l)
    (hst : l.st = .rgb rgb) (hwf : s.cfg.wf) (col : ColorValue) (caller : Nat) (r : Ret) :
    finish ((applyColor id rgb col s).bind (returns caller r)) = .next (s.after id
      ((d.withLive { l with st := .rgb ⟨col, rgb.period⟩ }).withEvents (colorEvents s.cfg rgb.period col))
      (writeAll d.base (colorWrites s.cfg rgb.period col) s.hw) (.caller caller) r) := by
  rw [applyColor_eq_colorWrites col hd hl hst hwf, setSt_wrote hd hl]
  rfl

/-- The same after a change of the Session. -/
theorem finish_applyColor_modifySession (h : InSession s c d l ses) (hst : l.st = .rgb rgb) (hwf : s.cfg.wf)
    (f : Session → Session) (col : ColorValue) (r : Ret) :
    finish ((applyColor c.inst rgb col (s.modifySession c.inst f)).bind (returns c.caller r)) =
      .next (s.after c.inst
        ((d.withLive { l with st := .rgb ⟨col, rgb.period⟩, session := some (f ses) }).withEvents
          (colorEvents s.cfg rgb.period col))
        (writeAll d.base (colorWrites s.cfg rgb.period col) s.hw) (.caller c.caller) r) := by
  have ⟨⟨hd, _, _⟩, _, _⟩ := h
  have hcolor := finish_returns_applyColor
    (s := { s with devices := s.devices.set c.inst (d.withLive { l with session := some (f ses) }) })
    (get_set_self hd _) rfl hst hwf col c.caller r
  rw [modifySession_of_inSession h, hcolor, after_of_set]
  rfl

end InSession

/-- Settles O39: a triple is stored and applied, a shorter text is stored. -/
theorem rgbWriteAppliesTriple : Obligations.RgbWriteAppliesTriple := by
  rintro s c d l ses rgb offset data h hst hm hbuf hwf hfit _ rfl
  rw [exec_rgbStreamWrite_of_inSession h hst hm hbuf, if_neg (not_lt.mpr hfit), overlay]
  refine ⟨fun col hcol => ⟨_, ?_, colorWritten_writeAll hwf ..⟩, fun hshort => ?_⟩
  · rw [rgbWriteText_of_color hcol]
    exact finish_applyColor_modifySession h hst hwf ..
  · rw [rgbWriteText_of_short hshort]
    exact finish_returns_modifySession h ..

/-- Settles O40: the layout, the trimming, and the three ways a write is malformed. -/
theorem malformedRgbWriteIsRejected : Obligations.MalformedRgbWriteIsRejected := by
  refine ⟨fun _ _ => parseColor_eq_some, isTrimmedContent_trimmed, ?_⟩
  rintro s c d l ses rgb offset data h hst hm hbuf _ rfl hbad
  rw [exec_rgbStreamWrite_of_inSession h hst hm hbuf]
  split
  case isTrue => rfl
  case isFalse hfit =>
    obtain hover | hlong | ⟨hlen, hparse⟩ := hbad
    · exact absurd hover hfit
    · exact congrArg finish (rgbWriteText_of_long hlong)
    · exact congrArg finish (rgbWriteText_of_malformed hlen hparse)

end Sys2Proof.Machine
end

section
/-! The privilege of the Set commands (O14, R150 step 4, R229), and the interruption of a blocked caller (O48, R227). -/

namespace Sys2Proof.Machine

/-- Step 4 of R150: a gated command of the device's kind without privilege, whatever its argument. -/
theorem command_gated_unprivileged {α : Type} {s : State} {c : Ctx} {d : Device} {l : Live}
    {known : DeviceConfig → Option α} {st : α} (h : Holds s c d l) (hst : known l.st = some st)
    (k : α → Except Stop State) :
    finish (command c false true known s k) = .next (s.answer (.caller c.caller) (.error .permissionDenied)) := by
  rw [command_of_holds h hst]
  rfl

/-- Settles O14: each of the five is a gated command of its kind. -/
theorem gatedCommandsNeedPrivilege : Obligations.GatedCommandsNeedPrivilege := by
  intro s c d l h
  refine ⟨fun led hst v => ?led, fun rgb hst v => ?rgb, fun sw hst v => ?sw⟩
  case led =>
    have hknown : l.st.led? = some led := by rw [hst]; rfl
    exact ⟨command_gated_unprivileged h hknown _, command_gated_unprivileged h hknown _⟩
  case rgb =>
    have hknown : l.st.rgb? = some rgb := by rw [hst]; rfl
    exact ⟨command_gated_unprivileged h hknown _, command_gated_unprivileged h hknown _⟩
  case sw =>
    have hknown : l.st.sw? = some sw := by rw [hst]; rfl
    exact command_gated_unprivileged h hknown _

/-- An interruption, by whether the caller is blocked. -/
theorem exec_hostInterrupt (k : Nat) (s : State) : exec (.hostInterrupt k) s =
    .next ((if s.isBlocked k then (unblock k s).raise (.caller k) .interrupted else s).reply .host .ok) := rfl

/-- Settles O48, by whether the caller is among the blocked ones. -/
theorem interruptWakesBlockedCaller : Obligations.InterruptWakesBlockedCaller := by
  refine fun s k => ⟨fun hblocked => ?woken, fun hnone => ?unaffected⟩ <;> rw [exec_hostInterrupt]
  case woken =>
    have hb : s.isBlocked k = true := by
      by_contra hfree
      exact isBlocked_eq_false.mp (Bool.eq_false_of_not_eq_true hfree) (mem_blockedCallers.mpr hblocked)
    simp [hb, unblock, State.reply]
  case unaffected =>
    have hb : s.isBlocked k = false := by
      refine isBlocked_eq_false.mpr fun hmem => ?_
      obtain ⟨d, hd, x, hx, hcaller⟩ := mem_blockedCallers.mp hmem
      exact hnone d hd x hx hcaller
    simp [hb]

end Sys2Proof.Machine
end

section
/-! Only a privileged Set command changes `initValue`, `mask` or `period` (O58, R229): every other operation that
presents a token leaves the Peripheral States, or changes a colour. -/

namespace Sys2Proof.Machine

/-! ## The fields of R229 -/

/-- A Peripheral State without its colour: the fields that only a privileged command changes. -/
def DeviceConfig.uncolored (st : DeviceConfig) : DeviceConfig :=
  match st with
  | .rgb x => .rgb { x with color := ⟨0, 0, 0⟩ }
  | .led x => .led x
  | .sw x => .sw x

theorem sameConfig_iff {a b : DeviceConfig} : SameConfig a b ↔ a.uncolored = b.uncolored := by
  cases a with
  | led | rgb | sw => cases b <;> simp [SameConfig, DeviceConfig.uncolored]

/-- Those fields of a device; a dead device has none. -/
def Device.config? (d : Device) : Option DeviceConfig := d.peripheral?.map DeviceConfig.uncolored

/-- Those fields of the devices, in their order. -/
def State.configs (s : State) : List (Option DeviceConfig) := s.devices.map Device.config?

theorem configs_eq_map (s : State) : s.configs = s.peripherals.map (Option.map DeviceConfig.uncolored) :=
  List.map_map.symm

/-- Where no Peripheral State changed, none of its fields did. -/
theorem configs_of_peripherals {s t : State} (h : t.peripherals = s.peripherals) : t.configs = s.configs := by
  rw [configs_eq_map, configs_eq_map, h]

theorem configs_of_live? {s : State} {id : Nat} {l : Live} (h : s.live? id = some l) :
    s.configs[id]? = some (some l.st.uncolored) := by
  simp [configs_eq_map, peripherals_of_live? h]

theorem sameConfig_of_configs {s t : State} {id : Nat} {l m : Live} (h : t.configs = s.configs)
    (hl : s.live? id = some l) (hm : t.live? id = some m) : SameConfig l.st m.st := by
  have heq := (configs_of_live? hl).symm.trans (h ▸ configs_of_live? hm)
  exact sameConfig_iff.mpr (Option.some.inj (Option.some.inj heq))

/-! ## The procedures -/

/-- A change of what a live device holds that leaves those fields. -/
theorem modifyLive_configs (id : Nat) (f : Live → Live) (s : State) (hf : ∀ l, (f l).st = l.st) :
    (s.modifyLive id f).configs = s.configs :=
  map_modify_of_eq (fun d => by simp [Device.config?, Device.peripheral?, Function.comp_def, hf]) s.devices id

theorem modifySession_configs (id : Nat) (f : Session → Session) (s : State) :
    (s.modifySession id f).configs = s.configs :=
  modifyLive_configs id _ s fun _ => rfl

theorem returns_configs {caller : Nat} {r : Ret} {s t : State} (h : returns caller r s = .ok t) :
    t.configs = s.configs := by
  cases h; rfl

theorem raises_configs {caller : Nat} {e : Err} {s t : State} (h : raises caller e s = .ok t) :
    t.configs = s.configs := by
  cases h; rfl

theorem copyOut_configs {caller : Nat} {r : Ret} {s t : State} (h : copyOut caller r s = .ok t) :
    t.configs = s.configs := by
  obtain ⟨-, rfl⟩ | ⟨-, rfl⟩ := copyOut_ok h <;> rfl

theorem copyIn_configs {caller : Nat} {s t : State} {k : Except Stop State} (h : copyIn caller s k = .ok t)
    (hk : k = .ok t → t.configs = s.configs) : t.configs = s.configs := by
  obtain ⟨-, h⟩ | ⟨-, rfl⟩ := copyIn_ok h
  · exact hk h
  · rfl

/-- A command leaves those fields where its own part does, and where it is gated and unprivileged. -/
theorem command_configs {α : Type} {s t : State} {c : Ctx} {priv gated : Bool} {known : DeviceConfig → Option α}
    {k : α → Except Stop State} (h : command c priv gated known s k = .ok t)
    (hk : ∀ st, (gated = true → priv = true) → k st = .ok t → t.configs = s.configs) : t.configs = s.configs := by
  obtain ⟨l, -, -, ⟨rfl, -⟩ | ⟨rfl, -⟩ | ⟨st, -, hpriv, h⟩⟩ := command_ok h
  · rfl
  · rfl
  · exact hk st hpriv h

theorem stream_configs {α : Type} {s t : State} {c : Ctx} {known : DeviceConfig → Option α}
    {k : α → Session → Except Stop State} (h : stream c known s k = .ok t)
    (hk : ∀ l st ses, s.live? c.inst = some l → known l.st = some st → k st ses = .ok t → t.configs = s.configs) :
    t.configs = s.configs := by
  obtain ⟨l, ses, st, hl, -, -, -, hst, h⟩ := stream_ok h
  exact hk l st ses hl hst h

theorem finishRead_configs {s t : State} {c : Ctx} {offset cap : Nat} {buf : List Byte}
    (h : finishRead c offset cap buf s = .ok t) : t.configs = s.configs :=
  (returns_configs h).trans (modifySession_configs _ _ _)

theorem finishSeek_configs {s t : State} {c : Ctx} {pos : Nat} {offset : Int} {wh : Whence}
    (h : finishSeek c pos offset wh s = .ok t) : t.configs = s.configs := by
  unfold finishSeek at h
  split at h
  · exact raises_configs h
  · exact (returns_configs h).trans (modifySession_configs _ _ _)

theorem grant_configs (id : Nat) (w : Waiter) (s : State) : (grant id w s).configs = s.configs :=
  configs_of_peripherals (grant_untouched id w s).2

theorem grantNext_configs (id : Nat) (s : State) : (grantNext id s).configs = s.configs := by
  unfold grantNext
  split
  · rfl
  · exact (grant_configs _ _ _).trans (map_modify_of_eq (g := Device.config?) (fun _ => by rfl) s.devices id)

theorem release_configs {s t : State} {c : Ctx} (h : release c s = .ok t) : t.configs = s.configs := by
  unfold release at h
  split at h
  · cases h
  · split at h <;> cases h
    exact (grantNext_configs _ _).trans (modifyLive_configs c.inst _ s fun _ => rfl)

theorem closeStream_configs {s t : State} {k : Kind} {c : Ctx} (h : closeStream k c s = .ok t) :
    t.configs = s.configs := by
  unfold closeStream at h
  split at h
  · cases h
  · split at h
    · cases h
    · exact release_configs h

/-- A new Peripheral State that differs from the old one in its colour only. -/
theorem setSt_configs {s : State} {id : Nat} {l : Live} {st : DeviceConfig} (hl : s.live? id = some l)
    (hst : st.uncolored = l.st.uncolored) : (s.setSt id st).configs = s.configs := by
  obtain ⟨d, hd, hlife⟩ := device_of_live? hl
  rw [setSt_of_device hd hlife]
  exact map_set_of_eq hd (by simp [Device.config?, Device.peripheral?, live?_of_life hlife, hst])

/-- The one change of a Peripheral State outside the Set commands: `st.color` (R155). -/
theorem applyColor_configs {s t : State} {id : Nat} {l : Live} {rgb : RgbState} {col : ColorValue}
    (hl : s.live? id = some l) (hst : l.st = .rgb rgb) (h : applyColor id rgb col s = .ok t) :
    t.configs = s.configs := by
  obtain ⟨dr, -, h⟩ := bind_ok.mp h
  obtain ⟨dg, -, h⟩ := bind_ok.mp h
  obtain ⟨db, -, h⟩ := bind_ok.mp h
  obtain ⟨s1, h1, h⟩ := bind_ok.mp h
  obtain ⟨s2, h2, h⟩ := bind_ok.mp h
  obtain ⟨s3, h3, h⟩ := bind_ok.mp h
  obtain ⟨s4, h4, h⟩ := bind_ok.mp h
  cases h
  have hl4 : s4.live? id = some l := by
    rw [writeRegister_live? h4, writeRegister_live? h3, writeRegister_live? h2, writeRegister_live? h1, hl]
  have hwrites := ((writeRegister_accesses h1).trans (writeRegister_accesses h2)).trans
    ((writeRegister_accesses h3).trans (writeRegister_accesses h4))
  exact (setSt_configs hl4 (by rw [hst]; rfl)).trans (configs_of_peripherals hwrites.states)

/-- The RGB variant is one of an RGB device's Peripheral State (R29). -/
theorem eq_rgb_of_rgb? {st : DeviceConfig} {rgb : RgbState} (h : st.rgb? = some rgb) : st = .rgb rgb := by
  cases st with
  | rgb => cases h; rfl
  | led | sw => cases h

theorem rgbWriteText_configs {s t : State} {c : Ctx} {l : Live} {rgb : RgbState} {tmp : List Byte} {offset n : Nat}
    (hl : s.live? c.inst = some l) (hst : l.st = .rgb rgb) (h : rgbWriteText c rgb tmp offset n s = .ok t) :
    t.configs = s.configs := by
  have hstore : (storeWrite c.inst tmp (offset + n) s).configs = s.configs := modifySession_configs _ _ _
  unfold rgbWriteText at h
  split at h
  · exact raises_configs h
  · split at h
    · split at h
      · exact raises_configs h
      · obtain ⟨u, hu, h⟩ := bind_ok.mp h
        exact ((returns_configs h).trans (applyColor_configs (modifySession_live? _ hl) hst hu)).trans hstore
    · exact (returns_configs h).trans hstore

/-! ## The operations -/

/-- The gated operations are commands. -/
theorem commandOf_of_gated {i : Instr} (h : gated i = true) : ∃ c k p, commandOf i = some (c, k, p) := by
  cases i with
  | ledSetInit | ledSetMask | rgbSetValue | rgbSetPeriod | swSetMask => exact ⟨_, _, _, rfl⟩
  | _ => cases h

/-- A gated command without privilege leaves every field, on whatever device it is called. -/
theorem exec_gated_configs {i : Instr} {s t : State} {c : Ctx} {k : Kind} (hg : gated i = true)
    (hi : commandOf i = some (c, k, false)) (h : exec i s = .next t) : t.configs = s.configs := by
  obtain ⟨α, known, rest, -, hexec⟩ := exec_command hi s
  exact command_configs (finish_next.mp (hexec.symm.trans h)) fun _ hpriv _ => absurd (hpriv hg) Bool.false_ne_true

/-- An operation that presents a token and is not gated leaves every field. -/
theorem exec_ungated_configs {i : Instr} {s t : State} {c : Ctx} (hc : tokenOf i = some c) (hg : gated i = false)
    (h : exec i s = .next t) : t.configs = s.configs := by
  cases i with
  | ledGetInit | ledGetMask | rgbGetValue | rgbGetPeriod | swGetMask =>
    exact command_configs (finish_next.mp h) fun _ _ hk => copyOut_configs hk
  | ledReset =>
    refine command_configs (finish_next.mp h) fun _ _ hk => ?_
    obtain ⟨u, hu, hk⟩ := bind_ok.mp hk
    exact (returns_configs hk).trans (configs_of_peripherals (writeRegister_accesses hu).states)
  | swGetValue =>
    refine command_configs (finish_next.mp h) fun _ _ hk => ?_
    split at hk
    · cases hk
    · rename_i hr
      exact (copyOut_configs hk).trans (configs_of_peripherals (readMasked_accesses hr).states)
  | guardRelease => exact release_configs (finish_next.mp h)
  | ledClose | rgbClose | swClose => exact closeStream_configs (finish_next.mp h)
  | ledStreamRead | swStreamWrite => exact stream_configs (finish_next.mp h) fun _ _ _ _ _ hk => raises_configs hk
  | ledStreamWrite =>
    refine stream_configs (finish_next.mp h) fun _ _ _ _ _ hk => copyIn_configs (requireMode_ok.mp hk).2 fun hk => ?_
    obtain ⟨u, hu, hk⟩ := bind_ok.mp hk
    have hwrites := configs_of_peripherals (writePatterns_accesses hu).states
    exact ((returns_configs hk).trans (modifySession_configs _ _ _)).trans hwrites
  | ledSeek =>
    refine stream_configs (finish_next.mp h) fun _ _ _ _ _ hk => ?_
    obtain ⟨u, hu, hk⟩ := bind_ok.mp hk
    exact (finishSeek_configs hk).trans (configs_of_peripherals (writeRegister_accesses hu).states)
  | rgbStreamRead =>
    refine stream_configs (finish_next.mp h) fun _ _ _ _ _ hk => ?_
    exact copyIn_configs (requireMode_ok.mp hk).2 finishRead_configs
  | rgbStreamWrite =>
    refine stream_configs (finish_next.mp h) fun _ _ _ hl hst hk => ?_
    refine copyIn_configs (requireMode_ok.mp hk).2 fun hk => ?_
    split at hk
    · exact raises_configs hk
    · exact rgbWriteText_configs hl (eq_rgb_of_rgb? hst) hk
  | rgbSeek =>
    refine stream_configs (finish_next.mp h) fun _ _ _ _ _ hk => ?_
    obtain ⟨u, hu, hk⟩ := bind_ok.mp hk
    exact (finishSeek_configs hk).trans (configs_of_peripherals (resetDuty_accesses hu).states)
  | swStreamRead =>
    refine stream_configs (finish_next.mp h) fun _ _ _ _ _ hk => copyIn_configs (requireMode_ok.mp hk).2 fun hk => ?_
    split at hk
    · split at hk
      · cases hk
      · rename_i hr
        exact (finishRead_configs hk).trans (configs_of_peripherals (readMasked_accesses hr).states)
    · exact finishRead_configs hk
  | swSeek => exact stream_configs (finish_next.mp h) fun _ _ _ _ _ hk => finishSeek_configs hk
  | ledSetInit | ledSetMask | rgbSetValue | rgbSetPeriod | swSetMask => cases hg
  | rfRead | rfWrite | rfWriteMasked8 | rfBarrier | codecDecode | codecEncode | codecScaleDuty | guardAcquire
  | ledOpen | rgbOpen | swOpen | hostAttach | hostDetach | hostShutdown | hostInterrupt => cases hc

/-- Settles O58: a Peripheral State that changed is that of the device whose token the operation presents, and there an
operation other than a privileged Set command leaves the fields of R229. -/
theorem unprivilegedCannotReconfigure : Obligations.UnprivilegedCannotReconfigure := by
  intro s t i id l m h hl hm hset
  by_cases hsame : m.st = l.st
  · exact sameConfig_iff.mpr (by rw [hsame])
  obtain ⟨c, hc, hid, -⟩ := exec_changes_state h hl hm hsame
  refine sameConfig_of_configs ?_ hl hm
  cases hg : gated i with
  | false => exact exec_ungated_configs hc hg h
  | true =>
    obtain ⟨c', k, p, hi⟩ := commandOf_of_gated hg
    obtain rfl : c' = c := by simpa [tokenOf, hi] using hc
    cases p with
    | false => exact exec_gated_configs hg hi h
    | true => exact absurd ⟨hg, c', k, hi, hid⟩ hset

end Sys2Proof.Machine
end

section
/-! A returned error leaves no partial mutation (O57, R223): an operation ends in an error before it changes anything,
but for its register read or a seek's reset (R200). -/

namespace Sys2Proof.Machine

/-! ## States that differ in records only -/

/-- The devices without their event histories. -/
def State.contents (s : State) : List Device := s.devices.map fun d => { d with events := [] }

/-- From `s` to `t` the devices and the token counter stayed, event histories aside, and the registers became `hw`. -/
structure Kept (hw : Memory) (s t : State) : Prop where
  contents : t.contents = s.contents
  tokens : t.nextToken = s.nextToken
  registers : t.hw = hw

theorem Kept.refl (s : State) : Kept s.hw s s := ⟨rfl, rfl, rfl⟩

theorem readMasked_kept {s t : State} {id : Nat} {sw : SwState} {v : Byte} (h : readMasked id sw s = .ok (v, t)) :
    Kept s.hw s t := by
  unfold readMasked at h
  split at h
  · cases h
  · rename_i hr
    cases h
    obtain ⟨d, l, hd, -, -, -, rfl⟩ := readRegister_ok hr
    exact ⟨map_set_of_eq hd rfl, rfl, rfl⟩

theorem wrote_kept {s : State} {id : Nat} {d : Device} (hd : s.devices[id]? = some d) (ws : List (Nat × RegVal)) :
    Kept (writeAll d.base ws s.hw) s (s.wrote id d ws) :=
  ⟨map_set_of_eq hd rfl, rfl, rfl⟩

/-! ## Operations that end in an error -/

/-- If the one result returned from `s` to `t` is an error, then the two states are as `Kept` says. -/
def CleanError (hw : Memory) (s t : State) : Prop :=
  ∀ a e, t.replies = s.replies ++ [⟨a, .error e⟩] → Kept hw s t

/-- A result that is not an error. -/
def Ret.Succeeds (r : Ret) : Prop := ∀ e, r ≠ .error e

theorem toRet_succeeds (v : RegVal) : v.toRet.Succeeds := by cases v <;> exact nofun

theorem grantRet_succeeds (token : Nat) (mode : Option Mode) : (grantRet token mode).Succeeds := by
  cases mode <;> exact nofun

section Results

variable {hw : Memory} {s t u : State} {caller : Nat} {r : Ret} {e : Err}

theorem reply_cleanError {a : Agent} (hr : r.Succeeds) : CleanError hw s (u.reply a r) := by
  intro b e h
  have hlast := congrArg List.getLast? h
  simp only [reply_replies, List.getLast?_concat, Option.some.injEq, Reply.mk.injEq] at hlast
  exact absurd hlast.2 (hr e)

theorem raise_cleanError {a : Agent} (hu : Kept hw s u) : CleanError hw s (u.raise a e) :=
  fun _ _ _ => ⟨hu.contents, hu.tokens, hu.registers⟩

/-- An operation that returns nothing returns no error: a caller that blocks (R61). -/
theorem cleanError_of_replies (h : t.replies = s.replies) : CleanError hw s t := by
  intro a e herr
  rw [h] at herr
  simp at herr

theorem returns_cleanError (h : returns caller r u = .ok t) (hr : r.Succeeds) : CleanError hw s t := by
  cases h
  exact reply_cleanError hr

theorem bind_returns_cleanError {x : Except Stop State} (h : x.bind (returns caller r) = .ok t) (hr : r.Succeeds) :
    CleanError hw s t := by
  obtain ⟨u, -, h⟩ := bind_ok.mp h
  exact returns_cleanError h hr

theorem raises_cleanError (hu : Kept hw s u) (h : raises caller e u = .ok t) : CleanError hw s t := by
  cases h
  exact raise_cleanError hu

theorem copyOut_cleanError (hu : Kept hw s u) (h : copyOut caller r u = .ok t) (hr : r.Succeeds) :
    CleanError hw s t := by
  obtain ⟨-, rfl⟩ | ⟨-, rfl⟩ := copyOut_ok h
  · exact reply_cleanError hr
  · exact raise_cleanError hu

theorem copyIn_cleanError {k : Except Stop State} (h : copyIn caller s k = .ok t)
    (hk : k = .ok t → CleanError s.hw s t) : CleanError s.hw s t := by
  obtain ⟨-, h⟩ | ⟨-, rfl⟩ := copyIn_ok h
  · exact hk h
  · exact raise_cleanError (.refl s)

end Results

section Procedures

variable {s t : State} {c : Ctx}

/-- The errors of steps 3 and 4 of R150 change nothing. -/
theorem command_cleanError {α : Type} {priv gated : Bool} {known : DeviceConfig → Option α}
    {k : α → Except Stop State} (h : command c priv gated known s k = .ok t)
    (hk : ∀ st, k st = .ok t → CleanError s.hw s t) : CleanError s.hw s t := by
  obtain ⟨l, -, -, ⟨rfl, -⟩ | ⟨rfl, -⟩ | ⟨st, -, -, h⟩⟩ := command_ok h
  · exact raise_cleanError (.refl s)
  · exact raise_cleanError (.refl s)
  · exact hk st h

theorem stream_cleanError {α : Type} {known : DeviceConfig → Option α} {k : α → Session → Except Stop State}
    (h : stream c known s k = .ok t) (hk : ∀ st ses, k st ses = .ok t → CleanError s.hw s t) :
    CleanError s.hw s t := by
  obtain ⟨l, ses, st, -, -, -, -, -, h⟩ := stream_ok h
  exact hk st ses h

/-- A transfer of data into the block, in a mode that allows it. -/
theorem transfer_cleanError {ok : Bool} {caller : Nat} {k : Except Stop State}
    (h : requireMode ok (copyIn caller s k) = .ok t) (hk : k = .ok t → CleanError s.hw s t) : CleanError s.hw s t :=
  copyIn_cleanError (requireMode_ok.mp h).2 hk

theorem finishRead_cleanError {hw : Memory} {u : State} {offset cap : Nat} {buf : List Byte}
    (h : finishRead c offset cap buf u = .ok t) : CleanError hw s t :=
  returns_cleanError h nofun

/-- The error of a seek comes before the position is stored (R199). -/
theorem finishSeek_cleanError {hw : Memory} {u : State} {pos : Nat} {offset : Int} {wh : Whence} (hu : Kept hw s u)
    (h : finishSeek c pos offset wh u = .ok t) : CleanError hw s t := by
  unfold finishSeek at h
  split at h
  · exact raises_cleanError hu h
  · exact returns_cleanError h nofun

/-- The errors of a write come before the buffer is stored (R195). -/
theorem rgbWriteText_cleanError {rgb : RgbState} {tmp : List Byte} {offset n : Nat}
    (h : rgbWriteText c rgb tmp offset n s = .ok t) : CleanError s.hw s t := by
  unfold rgbWriteText at h
  split at h
  · exact raises_cleanError (.refl s) h
  · split at h
    · split at h
      · exact raises_cleanError (.refl s) h
      · exact bind_returns_cleanError h nofun
    · exact returns_cleanError h nofun

theorem acquire_cleanError {id : Nat} {w : Waiter} (h : acquire id w s = .ok t) : CleanError s.hw s t := by
  unfold acquire at h
  split at h
  · cases h
  · split at h
    · cases h
      exact reply_cleanError (grantRet_succeeds _ _)
    · split at h
      · cases h
      · cases h
        exact cleanError_of_replies rfl

theorem openStream_cleanError {k : Kind} {w : Site} {m : Mode} (h : openStream k w m s = .ok t) :
    CleanError s.hw s t := by
  unfold openStream at h
  split at h
  · cases h
  · split at h
    · cases h
    · split at h
      · exact acquire_cleanError h
      · exact raises_cleanError (.refl s) h

/-- The last result of a release is the releasing caller's `ok`, or the grant to a blocked caller (R61, R62). -/
theorem release_cleanError (h : release c s = .ok t) : CleanError s.hw s t := by
  unfold release at h
  split at h
  · cases h
  · split at h <;> cases h
    unfold grantNext
    split
    · exact reply_cleanError nofun
    · exact reply_cleanError (grantRet_succeeds _ _)

theorem closeStream_cleanError {k : Kind} (h : closeStream k c s = .ok t) : CleanError s.hw s t := by
  unfold closeStream at h
  split at h
  · cases h
  · split at h
    · cases h
    · exact release_cleanError h

theorem attach_cleanError {k : Kind} {base size : Nat} (h : attach k base size s = .ok t) : CleanError s.hw s t := by
  unfold attach at h
  split at h
  · split at h
    · cases h; exact raise_cleanError (.refl s)
    · cases h; exact raise_cleanError (.refl s)
    · split at h <;> cases h
      · exact raise_cleanError (.refl s)
      · exact reply_cleanError nofun
  · cases h

theorem endLifetime_cleanError {id : Nat} (h : endLifetime id s = .ok t) : CleanError s.hw s t := by
  unfold endLifetime at h
  split at h
  · cases h
  · obtain ⟨u, -, h⟩ := bind_ok.mp h
    cases h
    exact reply_cleanError nofun

end Procedures

/-! ## The operations -/

/-- Every operation but a seek on LED or RGB leaves the registers too where it returns an error. -/
theorem exec_cleanError {i : Instr} {s t : State} (hi : isResettingSeek i = false) (h : exec i s = .next t) :
    CleanError s.hw s t := by
  cases i with
  | ledGetInit | ledGetMask | rgbGetValue | rgbGetPeriod | swGetMask =>
    exact command_cleanError (finish_next.mp h) fun _ hk => copyOut_cleanError (.refl s) hk nofun
  | ledSetInit | ledSetMask | swSetMask =>
    refine command_cleanError (finish_next.mp h) fun _ hk => copyIn_cleanError hk fun hk => ?_
    exact returns_cleanError hk nofun
  | rgbSetValue =>
    refine command_cleanError (finish_next.mp h) fun _ hk => copyIn_cleanError hk fun hk => ?_
    exact bind_returns_cleanError hk nofun
  | rgbSetPeriod =>
    refine command_cleanError (finish_next.mp h) fun _ hk => copyIn_cleanError hk fun hk => ?_
    split at hk
    · unfold setPeriodZero at hk
      split at hk
      · cases hk
      · exact raises_cleanError (.refl s) hk
    · exact returns_cleanError hk nofun
  | ledReset => exact command_cleanError (finish_next.mp h) fun _ hk => bind_returns_cleanError hk nofun
  | swGetValue =>
    refine command_cleanError (finish_next.mp h) fun _ hk => ?_
    split at hk
    · cases hk
    · rename_i hr
      exact copyOut_cleanError (readMasked_kept hr) hk nofun
  | rfRead =>
    have h := finish_next.mp h
    split at h
    · cases h
    · exact returns_cleanError h (toRet_succeeds _)
  | rfWrite | rfWriteMasked8 => exact bind_returns_cleanError (finish_next.mp h) nofun
  | rfBarrier =>
    have h := finish_next.mp h
    split at h
    · cases h
    · exact returns_cleanError h nofun
  | codecDecode | codecEncode => exact returns_cleanError (finish_next.mp h) nofun
  | codecScaleDuty =>
    obtain ⟨_, -, h⟩ := bind_ok.mp (finish_next.mp h)
    exact returns_cleanError h nofun
  | guardAcquire => exact acquire_cleanError (finish_next.mp h)
  | guardRelease => exact release_cleanError (finish_next.mp h)
  | ledOpen | rgbOpen | swOpen => exact openStream_cleanError (finish_next.mp h)
  | ledClose | rgbClose | swClose => exact closeStream_cleanError (finish_next.mp h)
  | ledStreamRead | swStreamWrite =>
    exact stream_cleanError (finish_next.mp h) fun _ _ hk => raises_cleanError (.refl s) hk
  | ledStreamWrite =>
    refine stream_cleanError (finish_next.mp h) fun _ _ hk => transfer_cleanError hk fun hk => ?_
    obtain ⟨_, -, hk⟩ := bind_ok.mp hk
    exact returns_cleanError hk nofun
  | rgbStreamRead =>
    exact stream_cleanError (finish_next.mp h) fun _ _ hk => transfer_cleanError hk finishRead_cleanError
  | rgbStreamWrite =>
    refine stream_cleanError (finish_next.mp h) fun _ _ hk => transfer_cleanError hk fun hk => ?_
    split at hk
    · exact raises_cleanError (.refl s) hk
    · exact rgbWriteText_cleanError hk
  | swStreamRead =>
    refine stream_cleanError (finish_next.mp h) fun _ _ hk => transfer_cleanError hk fun hk => ?_
    split at hk
    · split at hk
      · cases hk
      · exact finishRead_cleanError hk
    · exact finishRead_cleanError hk
  | swSeek => exact stream_cleanError (finish_next.mp h) fun _ _ hk => finishSeek_cleanError (.refl s) hk
  | hostAttach => exact attach_cleanError (finish_next.mp h)
  | hostDetach | hostShutdown => exact endLifetime_cleanError (finish_next.mp h)
  | hostInterrupt =>
    cases h
    exact reply_cleanError nofun
  | ledSeek | rgbSeek => cases hi

/-- A seek on LED has made the one write of its reset where it returns an error. -/
theorem exec_ledSeek_cleanError {s t : State} {c : Ctx} {offset : Int} {whence : Whence}
    (h : exec (.ledSeek c offset whence) s = .next t) :
    ∃ d v, s.devices[c.inst]? = some d ∧ CleanError (writeAll d.base [(s.cfg.offLedData, v)] s.hw) s t := by
  obtain ⟨l, ses, led, -, -, -, -, -, h⟩ := stream_ok (finish_next.mp h)
  obtain ⟨u, hu, h⟩ := bind_ok.mp h
  obtain ⟨d, _, hd, -, -, rfl⟩ := writeRegister_ok hu
  exact ⟨d, _, hd, finishSeek_cleanError (wrote_kept hd [(s.cfg.offLedData, _)]) h⟩

/-- A seek on RGB has made the three writes of its reset where it returns an error. -/
theorem exec_rgbSeek_cleanError {s t : State} {c : Ctx} {offset : Int} {whence : Whence}
    (h : exec (.rgbSeek c offset whence) s = .next t) :
    ∃ d, s.devices[c.inst]? = some d ∧ CleanError (writeAll d.base
      [(s.cfg.offDutyR, .word 0), (s.cfg.offDutyG, .word 0), (s.cfg.offDutyB, .word 0)] s.hw) s t := by
  obtain ⟨l, ses, rgb, hl, -, -, -, hst, h⟩ := stream_ok (finish_next.mp h)
  obtain ⟨d, hd, hlife⟩ := device_of_live? hl
  obtain ⟨u, hu, h⟩ := bind_ok.mp h
  cases (resetDuty_spec hd hlife (eq_rgb_of_rgb? hst)).symm.trans hu
  exact ⟨d, hd, finishSeek_cleanError (wrote_kept hd _) h⟩

/-- Settles O57, by whether the operation is a seek that resets. -/
theorem errorsLeaveNoPartialMutation : Obligations.ErrorsLeaveNoPartialMutation := by
  intro s t i a e h herr
  cases hi : isResettingSeek i with
  | false =>
    have hkept := exec_cleanError hi h a e herr
    refine ⟨hkept.contents, hkept.tokens, fun _ => hkept.registers, ?rgb, ?led⟩
    case rgb => rintro c offset whence rfl; cases hi
    case led => rintro c offset whence rfl; cases hi
  | true =>
    cases i with
    | ledSeek c offset whence =>
      obtain ⟨d, v, hd, hclean⟩ := exec_ledSeek_cleanError h
      have hkept := hclean a e herr
      refine ⟨hkept.contents, hkept.tokens, nofun, nofun, ?_⟩
      rintro _ _ _ ⟨⟩
      exact ⟨d, hd, fun b hb => hkept.registers ▸ writeAll_read_other s.hw (by simpa using hb)⟩
    | rgbSeek c offset whence =>
      obtain ⟨d, hd, hclean⟩ := exec_rgbSeek_cleanError h
      have hkept := hclean a e herr
      refine ⟨hkept.contents, hkept.tokens, nofun, ?_, nofun⟩
      rintro _ _ _ ⟨⟩
      exact ⟨d, hd, fun b hb => hkept.registers ▸ writeAll_read_other s.hw (by simpa using hb)⟩
    | _ => cases hi

end Sys2Proof.Machine
end

section
/-! The host's attach (O46, R40, R250, R251): refused for its size, failed by the environment's draw, failed for an
overlap, or made. -/

namespace Sys2Proof.Machine

theorem width_bytes (w : Width) : Width.bytes w = if w = .w8 then 1 else 4 := by cases w <;> rfl

/-- A size covers a kind where every declared register ends within it (R6, R51). -/
theorem covers_iff {cfg : Config} {k : Kind} {size : Nat} :
    covers cfg k size = true ↔ ∀ r ∈ declaredRegs cfg k, r.1 + (if r.2 = .w8 then 1 else 4) ≤ size := by
  simp only [covers, width_bytes, List.all_eq_true, decide_eq_true_eq]

/-- A block overlaps where some live device's shares an address with it (R40). -/
theorem overlapsLive_iff {s : State} {base size : Nat} : overlapsLive s base size = true ↔
    ∃ d ∈ s.devices, d.live?.isSome = true ∧ base < d.base + d.extent ∧ d.base < base + size := by
  simp [overlapsLive]

section Attach

variable {s : State} {k : Kind} {base size : Nat}

theorem exec_hostAttach : exec (.hostAttach k base size) s = finish (attach k base size s) := rfl

theorem attach_of_not_covers (hsize : ¬covers s.cfg k size = true) : attach k base size s = refuse .extent := by
  rw [attach, if_neg hsize]

/-! With the size accepted, by the environment's draw (R251). -/

theorem attach_of_exhausted (hsize : covers s.cfg k size = true) (henv : s.env.attach = .resourceExhausted) :
    attach k base size s = .ok (s.answer .host (.error .resourceExhausted)) := by
  simp only [attach, hsize, henv, if_true]
  rfl

theorem attach_of_unavailable (hsize : covers s.cfg k size = true) (henv : s.env.attach = .deviceUnavailable) :
    attach k base size s = .ok (s.answer .host (.error .deviceUnavailable)) := by
  simp only [attach, hsize, henv, if_true]
  rfl

theorem attach_of_succeeds (hsize : covers s.cfg k size = true) (henv : s.env.attach = .succeeds) :
    attach k base size s =
      if overlapsLive s base size then .ok (s.answer .host (.error s.env.mapError.err))
      else .ok ({ s with devices := s.devices ++ [newDevice s.cfg k base size] }.answer .host
        (.device s.devices.length)) := by
  simp only [attach, hsize, henv, if_true]
  rfl

end Attach

/-- Settles O46, by the size, the environment's draw and the overlap. -/
theorem attachCreatesDefaults : Obligations.AttachCreatesDefaults := by
  refine fun s k base size => ⟨?short, fun hall => ?_⟩
  case short =>
    rintro ⟨r, hr, hlt⟩
    have hnot : ¬covers s.cfg k size = true := fun hsize => absurd (covers_iff.mp hsize r hr) (not_le.mpr hlt)
    rw [exec_hostAttach, attach_of_not_covers hnot]
    rfl
  have hsize : covers s.cfg k size = true := covers_iff.mpr hall
  refine ⟨fun henv => ?exhausted, fun henv => ?unavailable, fun henv hover => ?overlap, fun henv hapart => ?made⟩
  case exhausted => rw [exec_hostAttach, attach_of_exhausted hsize henv, finish_ok]
  case unavailable => rw [exec_hostAttach, attach_of_unavailable hsize henv, finish_ok]
  case overlap =>
    rw [exec_hostAttach, attach_of_succeeds hsize henv, if_pos (overlapsLive_iff.mpr hover)]
    rfl
  case made =>
    have hfree : overlapsLive s base size = false :=
      (overlapsLive_eq_false k).mpr (List.forall_mem_map.mpr fun d hd hlive _ => hapart d hd hlive)
    rw [exec_hostAttach, attach_of_succeeds hsize henv, if_neg (Bool.eq_false_iff.mp hfree)]
    cases k <;> rfl

end Sys2Proof.Machine
end

section
/-! The end of a lifetime (O47, R156, R252, R253): the writes that make a device safe, by its kind, and its death. -/

namespace Sys2Proof.Machine

/-- The writes that drive a kind to its safe default (R156, R252). -/
def safeWrites (cfg : Config) (k : Kind) : List (Nat × RegVal) :=
  match k with
  | .rgb => [(cfg.offDutyR, .word 0), (cfg.offDutyG, .word 0), (cfg.offDutyB, .word 0)]
  | .led => [(cfg.offLedData, .byte 0)]
  | .sw => []

section Lifetime

variable {s : State} {id : Nat} {d : Device} {l : Live}

theorem driveSafe_spec (hd : s.devices[id]? = some d) (hl : d.life = .attached l) :
    driveSafe id l.st.kind s = .ok (s.wrote id d (safeWrites s.cfg l.st.kind)) := by
  cases hst : l.st with
  | rgb rgb => exact resetDuty_spec hd hl hst
  | led led =>
    have hdecl : (s.cfg.offLedData, .w8) ∈ declaredRegs s.cfg l.st.kind := by rw [hst]; exact List.mem_singleton_self _
    exact writeRegister_spec (v := .byte 0) hd hl hdecl
  | sw sw => exact congrArg Except.ok (wrote_nil hd).symm

/-- The device after its safe writes and its death: its guard, session and Peripheral State are gone, the record of its
mapping and its blocked callers stay (R252, R254). -/
def Device.ended (d : Device) (cfg : Config) (k : Kind) : Device :=
  { d with life := .dead k, events := d.events ++ eventsOf (safeWrites cfg k) }

/-- The end of a lifetime in full. -/
theorem endLifetime_spec (hd : s.devices[id]? = some d) (hl : d.life = .attached l) :
    endLifetime id s = .ok (s.after id (d.ended s.cfg l.st.kind)
      (writeAll d.base (safeWrites s.cfg l.st.kind) s.hw) .host .ok) := by
  simp only [endLifetime, liveOf_ok.mpr (live?_of_device hd hl), driveSafe_spec hd hl, Except.bind]
  simp only [kill, State.wrote, State.modifyDevice, modify_eq_set (get_set_self hd _), List.set_set]
  rfl

theorem exec_endLifetime {i : Instr} (hi : i = .hostDetach id ∨ i = .hostShutdown id) :
    exec i s = finish (endLifetime id s) := by
  obtain rfl | rfl := hi <;> rfl

end Lifetime

/-- Settles O47: detach and shutdown are one operation, and its writes are the safe ones of the device's kind. -/
theorem endOfLifetimeIsSafe : Obligations.EndOfLifetimeIsSafe := by
  intro s id d l i hd hl hwf hi
  have hend : exec i s = .next (s.after id (d.ended s.cfg l.st.kind)
      (writeAll d.base (safeWrites s.cfg l.st.kind) s.hw) .host .ok) := by
    rw [exec_endLifetime hi, endLifetime_spec hd hl, finish_ok]
  refine ⟨fun rgb hst => ?rgb, fun led hst => ?led, fun sw hst => ?sw⟩ <;> rw [hend, hst]
  case rgb => exact ⟨_, dutiesZeroed_writeAll hwf d.base s.hw, rfl⟩
  case led => exact ⟨_, wroteOnly_write .., rfl⟩
  case sw => simp [Device.ended, safeWrites, DeviceConfig.kind, eventsOf]

end Sys2Proof.Machine
end
